-- ==== Sys2Proof/Word.lean ====
section
/-!
DEFINITION. The word types of the machine (spec 00_scope.md R6, R8): every value is an unsigned
integer, nothing is signed.
-/

namespace Sys2Proof

/-- A general register, a timer or a byte of memory: 8 bits (R6 `REG_W`, `TIMER_W`). -/
abbrev Byte := BitVec 8

/-- The index register, the program counter, a stack entry or an instruction word: 16 bits
(R6 `I_W`, `PC_W`, `STACK_W`; R70). -/
abbrev Word := BitVec 16

/-- A 4-bit field: a register number, a nibble of an instruction word or a sprite height (R71). -/
abbrev Nibble := BitVec 4

/-- A 12-bit absolute address operand (R71 `nnn`). -/
abbrev Addr12 := BitVec 12

end Sys2Proof
end

