-- ==== Sys2Proof/Config.lean ====
section
/-!
DEFINITION. What an implementation fixes (spec 00_scope.md R6 and the open parameters at the end of
92_eei_decisions.md) and the one free value of the machine, the random byte.
-/

namespace Sys2Proof

/-- The parameters of the hardware, fixed for one machine. R6: "A model takes the rows marked
"parameter" as arguments". They stand in the state as plain data that nothing writes, so that a
statement about every state is a statement about every value of them (DESIGN CHOICE, safe,
log 2). The defaults the spec gives are in Machine/Params.lean. -/
structure Config where
  /-- FONT, the 80 bytes of the font table (10_state.md R31, decision D4). -/
  font : Vector Byte 80
  /-- DEC_STRICT: the decoder rejects the non-canonical words of 30_encoding.md R78 (decision D2). -/
  decStrict : Bool
  /-- SHL_FLAG_MASK: the mask ShiftLeft applies to Vx for VF (42_arithmetic_logic.md R129, decision D11). -/
  shlFlagMask : Byte
  /-- PC_RESET: the program counter after reset (10_state.md R34, decision D3). -/
  pcReset : Word
  deriving DecidableEq, Repr

/-- RandomByte (10_state.md R33, 43_load_move_random.md R142, decision D28) where no byte has been
supplied from outside: the byte of the n-th draw. A FREE VALUE: the spec gives it no law, so it has
no body and nothing can be proved of any value of it (log 7). A supplied sequence of bytes is in
`Machine.State.random`. -/
opaque Config.randomByte : Nat → Byte

/-- R6 `MEM_SIZE`: addresses are 0 to 4095. -/
abbrev memSize : Nat := 4096

/-- R6 `FONT_LEN`: the font table is the first 80 bytes of memory (`FONT_BASE` = 0). -/
abbrev fontLen : Nat := 80

/-- R6 `GLYPH_BYTES`. -/
abbrev glyphBytes : Nat := 5

/-- R6 `PROG_BASE`: where Construct copies the program image. -/
abbrev progBase : Nat := 0x200

/-- R6 `PROG_MAX`: the longest image Construct accepts. -/
abbrev progMax : Nat := 3584

/-- R6 `STEP_RATE`: steps per second of wall-clock time. -/
abbrev stepRate : Nat := 600

end Sys2Proof
end

