-- ==== Sys2Proof/Machine/Params.lean ====
section
/-!
DEFINITION. The spec's default values of the parameters of 00_scope.md R6 (92_eei_decisions.md, last
paragraph). They stand here, and not in Config.lean, so that a test that shows one wrong can have
it mended.
-/

namespace Sys2Proof.Machine

/-- The bytes of the customary CHIP-8 hexadecimal font, the default of FONT (10_state.md R31,
decision D4): glyph d at 5d to 5d+4. "[from general knowledge, not in source]": PRESUMED, unsafe,
log 3. -/
def defaultFont : Vector Byte 80 :=
  #v[0xF0, 0x90, 0x90, 0x90, 0xF0,
     0x20, 0x60, 0x20, 0x20, 0x70,
     0xF0, 0x10, 0xF0, 0x80, 0xF0,
     0xF0, 0x10, 0xF0, 0x10, 0xF0,
     0x90, 0x90, 0xF0, 0x10, 0x10,
     0xF0, 0x80, 0xF0, 0x10, 0xF0,
     0xF0, 0x80, 0xF0, 0x90, 0xF0,
     0xF0, 0x10, 0x20, 0x40, 0x40,
     0xF0, 0x90, 0xF0, 0x90, 0xF0,
     0xF0, 0x90, 0xF0, 0x10, 0xF0,
     0xF0, 0x90, 0xF0, 0x90, 0x90,
     0xE0, 0x90, 0xE0, 0x90, 0xE0,
     0xF0, 0x80, 0x80, 0x80, 0xF0,
     0xE0, 0x90, 0x90, 0x90, 0xE0,
     0xF0, 0x80, 0xF0, 0x80, 0xF0,
     0xF0, 0x80, 0xF0, 0x80, 0x80]

/-- The defaults: FONT as above; DEC_STRICT = false (decision D2, log 5); SHL_FLAG_MASK = 0x80
(decision D11, log 4); PC_RESET = 0x200 (decision D3, conflict C1, log 6). Each is unsafe where a
claim rests on it. -/
def defaultConfig : Config where
  font := defaultFont
  decStrict := false
  shlFlagMask := 0x80
  pcReset := 0x200

end Sys2Proof.Machine
end

