-- ==== Sys2Proof/Syntax.lean ====
section
/-!
DEFINITION. The instruction set: the closed sum type of 34 variants (spec 30_encoding.md R73, R82),
each carrying exactly the operands its row lists, in the row's order.
-/

namespace Sys2Proof

/-- The 34 variants of R73, in the table's order. Register numbers are 4-bit values, `nn` is an
8-bit value, `nnn` a 12-bit value and `n` a 4-bit value (R82). The bits of R78 are not carried. -/
inductive Instr where
  | clearScreen
  | ret
  | jump (nnn : Addr12)
  | call (nnn : Addr12)
  | skipEqImm (x : Nibble) (nn : Byte)
  | skipNeImm (x : Nibble) (nn : Byte)
  | skipEqReg (x y : Nibble)
  | loadImm (x : Nibble) (nn : Byte)
  | addImm (x : Nibble) (nn : Byte)
  | move (x y : Nibble)
  | or (x y : Nibble)
  | and (x y : Nibble)
  | xor (x y : Nibble)
  | add (x y : Nibble)
  | sub (x y : Nibble)
  | shiftRight (x y : Nibble)
  | subRev (x y : Nibble)
  | shiftLeft (x y : Nibble)
  | skipNeReg (x y : Nibble)
  | loadIndex (nnn : Addr12)
  | jumpIndexed (nnn : Addr12)
  | loadRand (x : Nibble) (nn : Byte)
  | draw (x y n : Nibble)
  | skipKeyPressed (x : Nibble)
  | skipKeyNotPressed (x : Nibble)
  | loadDelay (x : Nibble)
  | waitForKey (x : Nibble)
  | setDelay (x : Nibble)
  | setSound (x : Nibble)
  | addIndex (x : Nibble)
  | loadFont (x : Nibble)
  | storeBCD (x : Nibble)
  | regDump (x : Nibble)
  | regLoad (x : Nibble)
  deriving DecidableEq, Repr

end Sys2Proof
end

