-- ==== Sys2Proof/WellFormed.lean ====
section
/-!
DEFINITION. The source form of an instruction and the operand ranges an assembler must enforce (spec
30_encoding.md R84, R86), with the format of each variant (section 2 and the rows of R73).
An `Instr` carries its operands at their widths, so every `Instr` is well formed; what can be ill
formed is a `Source`, a variant name with a list of plain numbers.
-/

namespace Sys2Proof

/-- The names of the 34 variants (R73). -/
inductive Variant where
  | clearScreen
  | ret
  | jump
  | call
  | skipEqImm
  | skipNeImm
  | skipEqReg
  | loadImm
  | addImm
  | move
  | or
  | and
  | xor
  | add
  | sub
  | shiftRight
  | subRev
  | shiftLeft
  | skipNeReg
  | loadIndex
  | jumpIndexed
  | loadRand
  | draw
  | skipKeyPressed
  | skipKeyNotPressed
  | loadDelay
  | waitForKey
  | setDelay
  | setSound
  | addIndex
  | loadFont
  | storeBCD
  | regDump
  | regLoad
  deriving DecidableEq, Repr

/-- The six formats (30_encoding.md, section 2). -/
inductive Format where
  | z
  | a
  | xi
  | xy
  | xyn
  | x
  deriving DecidableEq, Repr

/-- The format column of R73. -/
def Variant.format : Variant → Format
  | .clearScreen | .ret => .z
  | .jump | .call | .loadIndex | .jumpIndexed => .a
  | .skipEqImm | .skipNeImm | .loadImm | .addImm
  | .loadRand => .xi
  | .skipEqReg | .move | .or | .and
  | .xor | .add | .sub | .shiftRight
  | .subRev | .shiftLeft | .skipNeReg => .xy
  | .draw => .xyn
  | .skipKeyPressed | .skipKeyNotPressed | .loadDelay | .waitForKey
  | .setDelay | .setSound | .addIndex | .loadFont
  | .storeBCD | .regDump | .regLoad => .x

/-- The widths in bits of a format's operands, in the order of R73. -/
def Format.widths : Format → List Nat
  | .z => []
  | .a => [12]
  | .xi => [4, 8]
  | .xy => [4, 4]
  | .xyn => [4, 4, 4]
  | .x => [4]

/-- An instruction as a source line gives it, `Name(op1, op2, ...)`, its operands plain numbers (R84). -/
structure Source where
  variant : Variant
  operands : List Nat
  deriving DecidableEq, Repr

/-- Are there as many operands as widths, and does each fit its width? -/
def fitsWidths : List Nat → List Nat → Bool
  | [], [] => true
  | w :: ws, n :: ns => decide (n < 2 ^ w) && fitsWidths ws ns
  | _, _ => false

/-- R86: register numbers 0 to 15, n 0 to 15, nn 0 to 255, nnn 0 to 0xFFF. "A value outside its range
cannot be encoded and is an assembly error, never silently truncated." -/
def Source.wellFormed (s : Source) : Bool :=
  fitsWidths s.variant.format.widths s.operands

/-- The source form of an instruction: its variant with its operands as numbers. -/
def Instr.source : Instr → Source
  | .clearScreen => ⟨.clearScreen, []⟩
  | .ret => ⟨.ret, []⟩
  | .jump nnn => ⟨.jump, [nnn.toNat]⟩
  | .call nnn => ⟨.call, [nnn.toNat]⟩
  | .skipEqImm x nn => ⟨.skipEqImm, [x.toNat, nn.toNat]⟩
  | .skipNeImm x nn => ⟨.skipNeImm, [x.toNat, nn.toNat]⟩
  | .skipEqReg x y => ⟨.skipEqReg, [x.toNat, y.toNat]⟩
  | .loadImm x nn => ⟨.loadImm, [x.toNat, nn.toNat]⟩
  | .addImm x nn => ⟨.addImm, [x.toNat, nn.toNat]⟩
  | .move x y => ⟨.move, [x.toNat, y.toNat]⟩
  | .or x y => ⟨.or, [x.toNat, y.toNat]⟩
  | .and x y => ⟨.and, [x.toNat, y.toNat]⟩
  | .xor x y => ⟨.xor, [x.toNat, y.toNat]⟩
  | .add x y => ⟨.add, [x.toNat, y.toNat]⟩
  | .sub x y => ⟨.sub, [x.toNat, y.toNat]⟩
  | .shiftRight x y => ⟨.shiftRight, [x.toNat, y.toNat]⟩
  | .subRev x y => ⟨.subRev, [x.toNat, y.toNat]⟩
  | .shiftLeft x y => ⟨.shiftLeft, [x.toNat, y.toNat]⟩
  | .skipNeReg x y => ⟨.skipNeReg, [x.toNat, y.toNat]⟩
  | .loadIndex nnn => ⟨.loadIndex, [nnn.toNat]⟩
  | .jumpIndexed nnn => ⟨.jumpIndexed, [nnn.toNat]⟩
  | .loadRand x nn => ⟨.loadRand, [x.toNat, nn.toNat]⟩
  | .draw x y n => ⟨.draw, [x.toNat, y.toNat, n.toNat]⟩
  | .skipKeyPressed x => ⟨.skipKeyPressed, [x.toNat]⟩
  | .skipKeyNotPressed x => ⟨.skipKeyNotPressed, [x.toNat]⟩
  | .loadDelay x => ⟨.loadDelay, [x.toNat]⟩
  | .waitForKey x => ⟨.waitForKey, [x.toNat]⟩
  | .setDelay x => ⟨.setDelay, [x.toNat]⟩
  | .setSound x => ⟨.setSound, [x.toNat]⟩
  | .addIndex x => ⟨.addIndex, [x.toNat]⟩
  | .loadFont x => ⟨.loadFont, [x.toNat]⟩
  | .storeBCD x => ⟨.storeBCD, [x.toNat]⟩
  | .regDump x => ⟨.regDump, [x.toNat]⟩
  | .regLoad x => ⟨.regLoad, [x.toNat]⟩

/-- The variant of an instruction. -/
def Instr.variant (i : Instr) : Variant :=
  i.source.variant

/-- An instruction is well formed when its source form is; the types of the operands see to it. -/
def Instr.wellFormed (i : Instr) : Bool :=
  i.source.wellFormed

end Sys2Proof
end

