-- ==== Sys2Proof/Decode.lean ====
section
/-!
DEFINITION. The decoder (spec 30_encoding.md R70 to R82), total on every word and every list of bytes
and rejecting by name; after it the encoder (R83), the opcode map as a table of rows (R73) and the
assembler's check (R86). The bit patterns are from general knowledge by decision D1 (PRESUMED,
unsafe, log 8).
-/

namespace Sys2Proof

/-- Why a decode gives no instruction. -/
inductive DecodeError where
  /-- The word matches no row of R73 (R79); Step turns it into the fault DecodeFailure(w). -/
  | decodeFailure (w : Word)
  /-- A list of bytes ends inside a word; the machine never sees this (its fetch faults before). -/
  | truncated
  deriving DecidableEq, Repr

/-- R71: n0 = w[15:12], the primary opcode. -/
def nib0 (w : Word) : Nibble := w.extractLsb' 12 4

/-- R71: n1 = w[11:8], the register number x. -/
def nib1 (w : Word) : Nibble := w.extractLsb' 8 4

/-- R71: n2 = w[7:4], the register number y. -/
def nib2 (w : Word) : Nibble := w.extractLsb' 4 4

/-- R71: n3 = w[3:0], the secondary opcode of top nibble 8 or the row count n. -/
def nib3 (w : Word) : Nibble := w.extractLsb' 0 4

/-- R71: nn = w[7:0]. -/
def lowByte (w : Word) : Byte := w.extractLsb' 0 8

/-- R71: nnn = w[11:0]. -/
def low12 (w : Word) : Addr12 := w.extractLsb' 0 12

/-- R74, top nibble 0: the bottom byte selects. The second nibble is examined only with
DEC_STRICT (R78). -/
def decodeTop0 (strict : Bool) (w : Word) : Option Instr :=
  if strict && nib1 w != 0 then none
  else
    match (lowByte w).toNat with
    | 0xE0 => some .clearScreen
    | 0xEE => some .ret
    | _ => none

/-- R74, top nibbles 5 and 9: one variant each. The bottom nibble is examined only with
DEC_STRICT (R78). -/
def decodeRegPair (strict : Bool) (mk : Nibble → Nibble → Instr) (w : Word) : Option Instr :=
  if strict && nib3 w != 0 then none else some (mk (nib1 w) (nib2 w))

/-- R74, top nibble 8: the bottom nibble selects. -/
def decodeTop8 (w : Word) : Option Instr :=
  let x := nib1 w
  let y := nib2 w
  match (nib3 w).toNat with
  | 0x0 => some (.move x y)
  | 0x1 => some (.or x y)
  | 0x2 => some (.and x y)
  | 0x3 => some (.xor x y)
  | 0x4 => some (.add x y)
  | 0x5 => some (.sub x y)
  | 0x6 => some (.shiftRight x y)
  | 0x7 => some (.subRev x y)
  | 0xE => some (.shiftLeft x y)
  | _ => none

/-- R74, top nibble 0xE: the bottom byte selects. -/
def decodeTopE (w : Word) : Option Instr :=
  match (lowByte w).toNat with
  | 0x9E => some (.skipKeyPressed (nib1 w))
  | 0xA1 => some (.skipKeyNotPressed (nib1 w))
  | _ => none

/-- R74, top nibble 0xF: the bottom byte selects. -/
def decodeTopF (w : Word) : Option Instr :=
  let x := nib1 w
  match (lowByte w).toNat with
  | 0x07 => some (.loadDelay x)
  | 0x0A => some (.waitForKey x)
  | 0x15 => some (.setDelay x)
  | 0x18 => some (.setSound x)
  | 0x1E => some (.addIndex x)
  | 0x29 => some (.loadFont x)
  | 0x33 => some (.storeBCD x)
  | 0x55 => some (.regDump x)
  | 0x65 => some (.regLoad x)
  | _ => none

/-- R74: "Dispatch primarily on the top nibble"; `none` is the decode failure. It depends on the
word and on DEC_STRICT alone (R70, R81) and examines no operand (R75). -/
def decodeOption (strict : Bool) (w : Word) : Option Instr :=
  match (nib0 w).toNat with
  | 0x0 => decodeTop0 strict w
  | 0x1 => some (.jump (low12 w))
  | 0x2 => some (.call (low12 w))
  | 0x3 => some (.skipEqImm (nib1 w) (lowByte w))
  | 0x4 => some (.skipNeImm (nib1 w) (lowByte w))
  | 0x5 => decodeRegPair strict .skipEqReg w
  | 0x6 => some (.loadImm (nib1 w) (lowByte w))
  | 0x7 => some (.addImm (nib1 w) (lowByte w))
  | 0x8 => decodeTop8 w
  | 0x9 => decodeRegPair strict .skipNeReg w
  | 0xA => some (.loadIndex (low12 w))
  | 0xB => some (.jumpIndexed (low12 w))
  | 0xC => some (.loadRand (nib1 w) (lowByte w))
  | 0xD => some (.draw (nib1 w) (nib2 w) (nib3 w))
  | 0xE => decodeTopE w
  | _ => decodeTopF w

/-- The decoder of R74 with its failure named (R82: the failure carries the word). -/
def decode (strict : Bool) (w : Word) : Except DecodeError Instr :=
  match decodeOption strict w with
  | some i => .ok i
  | none => .error (.decodeFailure w)

/-- An instruction word from its two bytes, the one at the lower address first (20_memory.md R52:
most significant byte first). -/
def wordOfBytes (hi lo : Byte) : Word := hi ++ lo

/-- Decode the first instruction of a list of bytes and give the rest (R70, R81: always two bytes). -/
def decodeBytes (strict : Bool) : List Byte → Except DecodeError (Instr × List Byte)
  | hi :: lo :: rest =>
    match decode strict (wordOfBytes hi lo) with
    | .ok i => .ok (i, rest)
    | .error e => .error e
  | _ => .error .truncated

/-- R83: the constructor's fixed bits and its operands as in R73, every `-` bit 0. -/
def encode : Instr → Word
  | .clearScreen => 0x00E0#16
  | .ret => 0x00EE#16
  | .jump nnn => 0x1#4 ++ nnn
  | .call nnn => 0x2#4 ++ nnn
  | .skipEqImm x nn => 0x3#4 ++ x ++ nn
  | .skipNeImm x nn => 0x4#4 ++ x ++ nn
  | .skipEqReg x y => 0x5#4 ++ x ++ y ++ 0x0#4
  | .loadImm x nn => 0x6#4 ++ x ++ nn
  | .addImm x nn => 0x7#4 ++ x ++ nn
  | .move x y => 0x8#4 ++ x ++ y ++ 0x0#4
  | .or x y => 0x8#4 ++ x ++ y ++ 0x1#4
  | .and x y => 0x8#4 ++ x ++ y ++ 0x2#4
  | .xor x y => 0x8#4 ++ x ++ y ++ 0x3#4
  | .add x y => 0x8#4 ++ x ++ y ++ 0x4#4
  | .sub x y => 0x8#4 ++ x ++ y ++ 0x5#4
  | .shiftRight x y => 0x8#4 ++ x ++ y ++ 0x6#4
  | .subRev x y => 0x8#4 ++ x ++ y ++ 0x7#4
  | .shiftLeft x y => 0x8#4 ++ x ++ y ++ 0xE#4
  | .skipNeReg x y => 0x9#4 ++ x ++ y ++ 0x0#4
  | .loadIndex nnn => 0xA#4 ++ nnn
  | .jumpIndexed nnn => 0xB#4 ++ nnn
  | .loadRand x nn => 0xC#4 ++ x ++ nn
  | .draw x y n => 0xD#4 ++ x ++ y ++ n
  | .skipKeyPressed x => 0xE#4 ++ x ++ 0x9E#8
  | .skipKeyNotPressed x => 0xE#4 ++ x ++ 0xA1#8
  | .loadDelay x => 0xF#4 ++ x ++ 0x07#8
  | .waitForKey x => 0xF#4 ++ x ++ 0x0A#8
  | .setDelay x => 0xF#4 ++ x ++ 0x15#8
  | .setSound x => 0xF#4 ++ x ++ 0x18#8
  | .addIndex x => 0xF#4 ++ x ++ 0x1E#8
  | .loadFont x => 0xF#4 ++ x ++ 0x29#8
  | .storeBCD x => 0xF#4 ++ x ++ 0x33#8
  | .regDump x => 0xF#4 ++ x ++ 0x55#8
  | .regLoad x => 0xF#4 ++ x ++ 0x65#8

/-- The two bytes of an instruction as they lie in memory, the first at the lower address (R52). -/
def encodeBytes (i : Instr) : List Byte :=
  [(encode i).extractLsb' 8 8, (encode i).extractLsb' 0 8]

/-- One row of the opcode map of R73: a word w selects it when `w AND mask = match`; `strictMask` is
the mask with DEC_STRICT (the note under R73). -/
structure Row where
  variant : Variant
  pattern : Word
  mask : Word
  strictMask : Word
  deriving DecidableEq, Repr

/-- The mask in force. -/
def Row.maskFor (r : Row) (strict : Bool) : Word :=
  if strict then r.strictMask else r.mask

/-- R73: does the word select the row? -/
def Row.selects (r : Row) (strict : Bool) (w : Word) : Bool :=
  w &&& r.maskFor strict == r.pattern

/-- Rows 1 to 17 of R73. -/
def opcodeRowsA : List Row :=
  [ ⟨.clearScreen, 0x00E0, 0xF0FF, 0xFFFF⟩,
    ⟨.ret, 0x00EE, 0xF0FF, 0xFFFF⟩,
    ⟨.jump, 0x1000, 0xF000, 0xF000⟩,
    ⟨.call, 0x2000, 0xF000, 0xF000⟩,
    ⟨.skipEqImm, 0x3000, 0xF000, 0xF000⟩,
    ⟨.skipNeImm, 0x4000, 0xF000, 0xF000⟩,
    ⟨.skipEqReg, 0x5000, 0xF000, 0xF00F⟩,
    ⟨.loadImm, 0x6000, 0xF000, 0xF000⟩,
    ⟨.addImm, 0x7000, 0xF000, 0xF000⟩,
    ⟨.move, 0x8000, 0xF00F, 0xF00F⟩,
    ⟨.or, 0x8001, 0xF00F, 0xF00F⟩,
    ⟨.and, 0x8002, 0xF00F, 0xF00F⟩,
    ⟨.xor, 0x8003, 0xF00F, 0xF00F⟩,
    ⟨.add, 0x8004, 0xF00F, 0xF00F⟩,
    ⟨.sub, 0x8005, 0xF00F, 0xF00F⟩,
    ⟨.shiftRight, 0x8006, 0xF00F, 0xF00F⟩,
    ⟨.subRev, 0x8007, 0xF00F, 0xF00F⟩ ]

/-- Rows 18 to 34 of R73. -/
def opcodeRowsB : List Row :=
  [ ⟨.shiftLeft, 0x800E, 0xF00F, 0xF00F⟩,
    ⟨.skipNeReg, 0x9000, 0xF000, 0xF00F⟩,
    ⟨.loadIndex, 0xA000, 0xF000, 0xF000⟩,
    ⟨.jumpIndexed, 0xB000, 0xF000, 0xF000⟩,
    ⟨.loadRand, 0xC000, 0xF000, 0xF000⟩,
    ⟨.draw, 0xD000, 0xF000, 0xF000⟩,
    ⟨.skipKeyPressed, 0xE09E, 0xF0FF, 0xF0FF⟩,
    ⟨.skipKeyNotPressed, 0xE0A1, 0xF0FF, 0xF0FF⟩,
    ⟨.loadDelay, 0xF007, 0xF0FF, 0xF0FF⟩,
    ⟨.waitForKey, 0xF00A, 0xF0FF, 0xF0FF⟩,
    ⟨.setDelay, 0xF015, 0xF0FF, 0xF0FF⟩,
    ⟨.setSound, 0xF018, 0xF0FF, 0xF0FF⟩,
    ⟨.addIndex, 0xF01E, 0xF0FF, 0xF0FF⟩,
    ⟨.loadFont, 0xF029, 0xF0FF, 0xF0FF⟩,
    ⟨.storeBCD, 0xF033, 0xF0FF, 0xF0FF⟩,
    ⟨.regDump, 0xF055, 0xF0FF, 0xF0FF⟩,
    ⟨.regLoad, 0xF065, 0xF0FF, 0xF0FF⟩ ]

/-- The opcode map of R73, 34 rows. -/
def opcodeRows : List Row :=
  opcodeRowsA ++ opcodeRowsB

/-- Build the instruction of a variant from operands that fit (R86 refuses the others first). -/
def buildInstr : Variant → List Nat → Option Instr
  | .clearScreen, [] => some .clearScreen
  | .ret, [] => some .ret
  | .jump, [nnn] => some (.jump (BitVec.ofNat 12 nnn))
  | .call, [nnn] => some (.call (BitVec.ofNat 12 nnn))
  | .skipEqImm, [x, nn] => some (.skipEqImm (BitVec.ofNat 4 x) (BitVec.ofNat 8 nn))
  | .skipNeImm, [x, nn] => some (.skipNeImm (BitVec.ofNat 4 x) (BitVec.ofNat 8 nn))
  | .skipEqReg, [x, y] => some (.skipEqReg (BitVec.ofNat 4 x) (BitVec.ofNat 4 y))
  | .loadImm, [x, nn] => some (.loadImm (BitVec.ofNat 4 x) (BitVec.ofNat 8 nn))
  | .addImm, [x, nn] => some (.addImm (BitVec.ofNat 4 x) (BitVec.ofNat 8 nn))
  | .move, [x, y] => some (.move (BitVec.ofNat 4 x) (BitVec.ofNat 4 y))
  | .or, [x, y] => some (.or (BitVec.ofNat 4 x) (BitVec.ofNat 4 y))
  | .and, [x, y] => some (.and (BitVec.ofNat 4 x) (BitVec.ofNat 4 y))
  | .xor, [x, y] => some (.xor (BitVec.ofNat 4 x) (BitVec.ofNat 4 y))
  | .add, [x, y] => some (.add (BitVec.ofNat 4 x) (BitVec.ofNat 4 y))
  | .sub, [x, y] => some (.sub (BitVec.ofNat 4 x) (BitVec.ofNat 4 y))
  | .shiftRight, [x, y] => some (.shiftRight (BitVec.ofNat 4 x) (BitVec.ofNat 4 y))
  | .subRev, [x, y] => some (.subRev (BitVec.ofNat 4 x) (BitVec.ofNat 4 y))
  | .shiftLeft, [x, y] => some (.shiftLeft (BitVec.ofNat 4 x) (BitVec.ofNat 4 y))
  | .skipNeReg, [x, y] => some (.skipNeReg (BitVec.ofNat 4 x) (BitVec.ofNat 4 y))
  | .loadIndex, [nnn] => some (.loadIndex (BitVec.ofNat 12 nnn))
  | .jumpIndexed, [nnn] => some (.jumpIndexed (BitVec.ofNat 12 nnn))
  | .loadRand, [x, nn] => some (.loadRand (BitVec.ofNat 4 x) (BitVec.ofNat 8 nn))
  | .draw, [x, y, n] => some (.draw (BitVec.ofNat 4 x) (BitVec.ofNat 4 y) (BitVec.ofNat 4 n))
  | .skipKeyPressed, [x] => some (.skipKeyPressed (BitVec.ofNat 4 x))
  | .skipKeyNotPressed, [x] => some (.skipKeyNotPressed (BitVec.ofNat 4 x))
  | .loadDelay, [x] => some (.loadDelay (BitVec.ofNat 4 x))
  | .waitForKey, [x] => some (.waitForKey (BitVec.ofNat 4 x))
  | .setDelay, [x] => some (.setDelay (BitVec.ofNat 4 x))
  | .setSound, [x] => some (.setSound (BitVec.ofNat 4 x))
  | .addIndex, [x] => some (.addIndex (BitVec.ofNat 4 x))
  | .loadFont, [x] => some (.loadFont (BitVec.ofNat 4 x))
  | .storeBCD, [x] => some (.storeBCD (BitVec.ofNat 4 x))
  | .regDump, [x] => some (.regDump (BitVec.ofNat 4 x))
  | .regLoad, [x] => some (.regLoad (BitVec.ofNat 4 x))
  | _, _ => none

/-- R84, R86: a source line whose operands fit is its instruction; any other is an assembly error. -/
def assemble (s : Source) : Option Instr :=
  if s.wellFormed then buildInstr s.variant s.operands else none

/-- The instruction this decoder reads from an instruction whose bits are `w`, numbered as
spec/opcode_table.json numbers them (one 16-bit word, bit 0 least significant), every bit from
`nbits` up zero: the word is laid out as the hardware stores it, high byte first (R52), and decoded
with the default DEC_STRICT. -/
def decodeTableWord (nbits w : Nat) : Option Instr :=
  let word := BitVec.ofNat 16 (w % 2 ^ nbits)
  match decodeBytes Machine.defaultConfig.decStrict [word.extractLsb' 8 8, word.extractLsb' 0 8] with
  | .ok (i, _) => some i
  | .error _ => none

end Sys2Proof
end

