-- ==== Sys2Proof/Machine/State.lean ====
section
/-!
DEFINITION. The state of the machine (spec 10_state.md), the fault records (60_exceptions.md R200), the
refusals of the host's interface, and the state after reset (10_state.md R34, 70_reset_and_hazards.md
R230). The state is plain data and holds everything 10_state.md gives the machine.
-/

namespace Sys2Proof.Machine

/-- The two kinds of index an OutOfRange fault reports (R200, R204). -/
inductive RangeKind where
  | mem
  | key
  deriving DecidableEq, Repr

/-- The fault records of R200. A fault is TAKEN, as R206 describes its entry: the step answers a next
state whose FAULT latch holds the record (`State.latch`, `raise`), so no step and no meaning ever
answers the interface's `fault` outcome with one (R11; log 1). Which direction each errs in: -/
inductive Fault where
  /-- Code 1, raised by the decode stage of Step for a word of R79 (R201); the source's own, safe. -/
  | decodeFailure (w : Word)
  /-- Code 2, raised by Call when SP = 16 (R202); the source's own, safe. -/
  | stackOverflow
  /-- Code 3, raised by Return when SP = 0 (R203); the source's own, safe. -/
  | stackUnderflow
  /-- Code 4, raised by the fetch, StoreBCD, RegDump, RegLoad and Draw with the first address above
  4095 (kind mem), and by the two key skips with a key number above 15 (kind key) (R204; decisions
  D21, D17); it stops where the source leaves the access undefined, safe (logs 14, 18). -/
  | outOfRange (kind : RangeKind) (value : Nat)
  /-- Code 5, raised by AddIndex when I + Vx > 0xFFFF (R205, decision D15); safe (log 12). -/
  | indexOverflow
  deriving DecidableEq, Repr

/-- Reasons an operation is refused. No instruction is: they are the host interface's refusals of an
argument outside its domain, each safe (nothing can be claimed of such a call). -/
inductive Refusal where
  /-- An arm of `exec` for an instruction without a meaning; no arm answers it now; safe. -/
  | notModelled (mnemonic : String)
  /-- `construct` of an image longer than 3584 bytes (R231, decision D24); safe (log 21). -/
  | imageTooLong (length : Nat)
  /-- `keyPress` or `keyRelease` with a key number above 15 (R187, decision D19); safe (log 16). -/
  | keyOutOfRange (k : Nat)
  /-- `runCycleSeconds` of a negative, infinite, not-a-number or overflowing argument (R186, U12 of
  93_implementation_defined.md); safe (log 17). -/
  | elapsedOutOfDomain
  deriving DecidableEq, Repr

/-- Main memory (R30) as the list of the bytes that differ from what an unlisted address reads as,
addresses strictly rising (`memWf`). -/
abbrev Memory := List Host.Cell

/-- The framebuffer (R29): 32 rows of 64 pixels, row 0 at the top, column 0 at the left (decision
D14, log 11); true is on. -/
abbrev Framebuffer := Vector (Vector Bool 64) 32

/-- The state of the machine: exactly the items of 10_state.md (R35 says the list is closed), and
three fields of the model's own at the end. -/
structure State where
  /-- MEM (R30). -/
  mem : Memory
  /-- V[0] to V[15] (R20); V[15] is VF (R21). -/
  v : Vector Byte 16
  /-- I (R22). -/
  index : Word
  /-- PC (R23). -/
  pc : Word
  /-- STACK[0] to STACK[15] (R24). -/
  stack : Vector Word 16
  /-- SP, 0 to 16, the number of entries in use (R24, decision D23, log 20). -/
  sp : Fin 17
  /-- DT (R25). -/
  dt : Byte
  /-- ST (R26). -/
  st : Byte
  /-- KEY[0] to KEY[15] (R27). -/
  keys : Vector Bool 16
  /-- WAIT (R28): `none`, or the pending register. -/
  wait : Option Nibble
  /-- FB (R29). -/
  fb : Framebuffer
  /-- FAULT (R32). -/
  fault : Option Fault
  /-- The model's own: the parameters of R6, which no operation writes (log 2). -/
  cfg : Config
  /-- The model's own: how many random bytes have been drawn (R33, log 7). -/
  draws : Nat
  /-- The model's own: the bytes supplied at the random input and not yet drawn, the next one first
  (R33, R193; log 7). Not state of the core, but the pending part of an input. -/
  random : List Byte
  deriving DecidableEq, Repr

/-- The state of R34 for an empty image under the parameters `cfg`: memory at its reset contents
(nothing listed), PC = PC_RESET, everything else zero, false, off or none. -/
def State.initial (cfg : Config) : State where
  mem := []
  v := Vector.replicate 16 0
  index := 0
  pc := cfg.pcReset
  stack := Vector.replicate 16 0
  sp := 0
  dt := 0
  st := 0
  keys := Vector.replicate 16 false
  wait := none
  fb := Vector.replicate 32 (Vector.replicate 64 false)
  fault := none
  cfg := cfg
  draws := 0
  random := []

/-- The machine right after reset (R34, R230): Construct of the empty image with the spec's default
parameters (log 28). -/
def State.reset : State :=
  State.initial defaultConfig

end Sys2Proof.Machine
end

