-- ==== Sys2Proof/Machine/Ops.lean ====
section
/-!
DEFINITION. The named operations over memory, registers, the call stack, the timers and the fault latch
(spec 10_state.md R20 to R32, 20_memory.md R50 to R56, 47_controller.md R181 to R183,
60_exceptions.md R206).
-/

namespace Sys2Proof.Machine

/-! ### Main memory -/

/-- What a byte of memory reads as when nothing lists it: its reset contents, FONT at 0 to 79 and
zero elsewhere (R34, R57). Addresses past 4095 do not exist; no checked access reads one (log 27). -/
def unlisted (cfg : Config) (a : Nat) : Byte :=
  if h : a < 80 then cfg.font[a] else 0

/-- The byte listed for an address, or what an unlisted address reads as. -/
def memRead (cfg : Config) : Memory → Nat → Byte
  | [], a => unlisted cfg a
  | c :: m, a => if c.1 = a then c.2 else memRead cfg m a

/-- Put a byte into the list at its place; a byte equal to what the unlisted address reads as is
not listed. -/
def memInsert (cfg : Config) (a : Nat) (b : Byte) : Memory → Memory
  | [] => if b = unlisted cfg a then [] else [(a, b)]
  | c :: m =>
    if a < c.1 then (if b = unlisted cfg a then c :: m else (a, b) :: c :: m)
    else if a = c.1 then (if b = unlisted cfg a then m else (a, b) :: m)
    else c :: memInsert cfg a b m

/-- Write one byte (R55 `MemWrite`, after its range check). An address past 4095 does not exist and
nothing is written there; no checked access comes to it (log 27). -/
def memWrite (cfg : Config) (m : Memory) (a : Nat) (b : Byte) : Memory :=
  if a < memSize then memInsert cfg a b m else m

/-- Every listed address is at least `lo` and inside memory, the addresses rise strictly, and no
entry equals what its unlisted address reads as. -/
def memWfFrom (cfg : Config) (lo : Nat) : Memory → Bool
  | [] => true
  | c :: m =>
    decide (lo ≤ c.1) && decide (c.1 < memSize) && decide (c.2 ≠ unlisted cfg c.1) &&
      memWfFrom cfg (c.1 + 1) m

/-- The canonical form of the memory list. -/
def memWf (cfg : Config) (m : Memory) : Bool :=
  memWfFrom cfg 0 m

/-- Read one byte of memory. -/
def State.peek (s : State) (a : Nat) : Byte :=
  memRead s.cfg s.mem a

/-- Write one byte of memory. -/
def State.poke (s : State) (a : Nat) (b : Byte) : State :=
  { s with mem := memWrite s.cfg s.mem a b }

/-- R54, R55: the first address of `base .. base+count-1` that exceeds 4095, if any. Addresses are
unbounded integers; nothing wraps and nothing is masked (decision D21, log 18). -/
def firstBad (base count : Nat) : Option Nat :=
  if base + count ≤ memSize then none
  else if count = 0 then none
  else some (max base memSize)

/-! ### Registers -/

/-- `V[i]` (R20). No register is hardwired. -/
def State.reg (s : State) (i : Nibble) : Byte :=
  s.v[i.toNat]'i.isLt

/-- `V[i] <- b` (R20). -/
def State.setReg (s : State) (i : Nibble) (b : Byte) : State :=
  { s with v := s.v.set i.toNat b i.isLt }

/-- `I <- a` (R22). -/
def State.setIndex (s : State) (a : Word) : State :=
  { s with index := a }

/-- `PC <- a`, the last action of an executing step (R183). -/
def State.goto (s : State) (a : Word) : State :=
  { s with pc := a }

/-- `pc <- PC + 2`. The sum fits 16 bits in every state a run reaches (R23, log 25). -/
def State.advance (s : State) : State :=
  s.goto (s.pc + 2)

/-- `DT <- b` (R25). -/
def State.setDelay (s : State) (b : Byte) : State :=
  { s with dt := b }

/-- `ST <- b` (R26). -/
def State.setSound (s : State) (b : Byte) : State :=
  { s with st := b }

/-- `WAIT <- w` (R28). -/
def State.setWait (s : State) (w : Option Nibble) : State :=
  { s with wait := w }

/-- `KEY[k] <- b` (R27). -/
def State.setKey (s : State) (k : Nibble) (b : Bool) : State :=
  { s with keys := s.keys.set k.toNat b k.isLt }

/-- `KEY[k]` (R27). -/
def State.key (s : State) (k : Nibble) : Bool :=
  s.keys[k.toNat]'k.isLt

/-- FB replaced whole (R29). -/
def State.setFb (s : State) (fb : Framebuffer) : State :=
  { s with fb := fb }

/-! ### Taking a fault -/

/-- R206 `FAULT <- F`, "only if FAULT = none, which always holds when a step runs" (log 26). -/
def State.latch (s : State) (f : Fault) : State :=
  { s with fault := some (s.fault.getD f) }

/-- R206 `raise F`, the one way a fault is taken: FAULT is latched and the rest of the step is
abandoned. No state is saved, there is no vector and no handler; PC keeps the address of the
faulting instruction. There is no return from a fault (R209), so no operation stands beside this. -/
def raise (f : Fault) (s : State) : Host.Outcome State Fault Refusal :=
  .next (s.latch f)

/-- The code of a fault (R200, decision D6, log 30); nothing depends on the numbers. -/
def faultCode : Fault → Nat
  | .decodeFailure _ => 1
  | .stackOverflow => 2
  | .stackUnderflow => 3
  | .outOfRange _ _ => 4
  | .indexOverflow => 5

/-! ### The call stack -/

/-- R24 `Push(v)`: test, write STACK[SP], increment SP. -/
def State.push (s : State) (a : Word) : Except Fault State :=
  if h : s.sp.val < 16 then
    .ok { s with stack := s.stack.set s.sp.val a h, sp := ⟨s.sp.val + 1, by omega⟩ }
  else .error .stackOverflow

/-- R24 `Pop()`: test, decrement SP, read STACK[SP]; the slot keeps its content. -/
def State.pop (s : State) : Except Fault (Word × State) :=
  if h : 0 < s.sp.val then
    .ok (s.stack[s.sp.val - 1]'(by omega), { s with sp := ⟨s.sp.val - 1, by omega⟩ })
  else .error .stackUnderflow

/-! ### The timers and the random input -/

/-- R181: a timer loses one per tick and stays at zero. -/
def tickTimer (t : Byte) : Byte :=
  if t = 0 then 0 else t - 1

/-- R181: the tick, the first action of every step. -/
def State.tick (s : State) : State :=
  { s with dt := tickTimer s.dt, st := tickTimer s.st }

/-- Bytes supplied from outside at the random input, behind those still pending (R33: "lets a test
inject a fixed sequence"; decision D28; log 7). -/
def State.supplyRandom (bytes : List Byte) (s : State) : State :=
  { s with random := s.random ++ bytes }

/-- The random input replaced whole: the bytes still to be drawn (log 7). -/
def State.setRandom (s : State) (bytes : List Byte) : State :=
  { s with random := bytes }

/-- R33 `RandomByte()`: the next supplied byte; where none has been supplied, a free value (log 7). -/
def State.nextRandom (s : State) : Byte :=
  match s.random with
  | r :: _ => r
  | [] => Config.randomByte s.draws

/-- One byte has been drawn: it is counted, and gone from the input. -/
def State.takeRandom (s : State) : State :=
  { s with draws := s.draws + 1, random := s.random.tail }

/-! ### The fetch -/

/-- R182: the big-endian word at PC and PC + 1, or OutOfRange with the first of the two addresses
that exceeds 4095. PC may be odd (R53, decision D22, log 19). -/
def State.fetch (s : State) : Except Fault Word :=
  match firstBad s.pc.toNat 2 with
  | some a => .error (.outOfRange .mem a)
  | none => .ok (wordOfBytes (s.peek s.pc.toNat) (s.peek (s.pc.toNat + 1)))

end Sys2Proof.Machine
end

