-- ==== Sys2Proof/Machine/Operands.lean ====
section
/-!
DEFINITION. The operand forms of the instruction set: addresses and immediates (spec 30_encoding.md
R72), the index-relative byte ranges (44_memory_indexed.md), key numbers (46_keyboard_timers.md),
skip targets (41_conditional_skip.md).
-/

namespace Sys2Proof.Machine

/-- R72: nnn is an absolute byte address, unsigned, not scaled. -/
def absAddr (nnn : Addr12) : Word :=
  nnn.setWidth 16

/-- R103: the base address plus V0, the whole sum, not reduced to 12 bits (decision D26, log 23). -/
def indexedTarget (nnn : Addr12) (s : State) : Word :=
  BitVec.ofNat 16 (nnn.toNat + (s.reg 0).toNat)

/-- The number of registers RegDump and RegLoad move: 0 to x inclusive (R154, R155). -/
def regCount (x : Nibble) : Nat :=
  x.toNat + 1

/-- The range check of a memory instruction (R56, R204): if one of the `count` addresses from I on
exceeds 4095 the fault is raised before anything is read or written (decision D7, log 24);
otherwise go on. -/
def withIndexRange (count : Nat) (s : State) (act : State → State) :
    Host.Outcome State Fault Refusal :=
  match firstBad s.index.toNat count with
  | some a => raise (.outOfRange .mem a) s
  | none => .next (act s)

/-- R170, R171: the key number a register holds, or OutOfRange(key, k) when it is above 15 (decision
D17, log 14). -/
def keyOperand (x : Nibble) (s : State) : Except Fault Nibble :=
  if (s.reg x).toNat ≤ 15 then .ok ((s.reg x).setWidth 4)
  else .error (.outOfRange .key (s.reg x).toNat)

/-- R110 to R113, R170, R171: PC + 4 when the condition holds, else PC + 2. -/
def skipIf (c : Bool) (s : State) : State :=
  s.goto (if c then s.pc + 4 else s.pc + 2)

/-- R20 and the instruction's `pc <- PC + 2`: write one register and go to the next instruction. -/
def writeReg (x : Nibble) (b : Byte) (s : State) : State :=
  (s.setReg x b).advance

/-- R120 (d): VF first, then Vx, then the next instruction; so with x = 0xF the result stays and the
flag is lost (decision D9, log 9). The caller has read its operands before. -/
def writeFlagged (flag : Byte) (x : Nibble) (b : Byte) (s : State) : State :=
  ((s.setReg 0xF flag).setReg x b).advance

end Sys2Proof.Machine
end

