-- ==== Sys2Proof/Machine/Flags.lean ====
section
/-!
DEFINITION. Every value an instruction writes to VF as a flag, and the 8-bit results beside them (spec
42_arithmetic_logic.md R120 to R129, 45_drawing.md R160). Operands are read as unsigned integers,
computed exactly and narrowed at the end.
-/

namespace Sys2Proof.Machine

/-- A Boolean as the byte 1 or 0. -/
def flagByte (c : Bool) : Byte :=
  if c then 1 else 0

/-- R121: 1 when the 9-bit sum exceeds 255. -/
def carryFlag (a b : Byte) : Byte :=
  flagByte (decide (a.toNat + b.toNat > 255))

/-- R123, R124: 1 when the first operand is strictly greater ("not the standard no-borrow
convention"). -/
def greaterFlag (a b : Byte) : Byte :=
  flagByte (decide (a.toNat > b.toNat))

/-- R128: the low bit. -/
def lowBitFlag (a : Byte) : Byte :=
  a &&& 1

/-- R129: the operand under SHL_FLAG_MASK, not normalised to 0 or 1 (decision D11, log 4). -/
def shiftLeftFlag (cfg : Config) (a : Byte) : Byte :=
  a &&& cfg.shlFlagMask

/-- R121, R122: the sum modulo 256. -/
def sumByte (a b : Byte) : Byte :=
  BitVec.ofNat 8 (a.toNat + b.toNat)

/-- R123, R124: the difference modulo 256. -/
def diffByte (a b : Byte) : Byte :=
  BitVec.ofInt 8 ((a.toNat : Int) - (b.toNat : Int))

/-- R128: the value halved, a logical shift right by one. -/
def halfByte (a : Byte) : Byte :=
  BitVec.ofNat 8 (a.toNat / 2)

/-- R129: the value doubled modulo 256, a logical shift left by one. -/
def doubleByte (a : Byte) : Byte :=
  BitVec.ofNat 8 (a.toNat * 2)

end Sys2Proof.Machine
end

