-- ==== Sys2Proof/Machine/Arith.lean ====
section
/-!
DEFINITION. The arithmetic, logic and shift instructions (spec 42_arithmetic_logic.md R120 to R129).
None can fault.
-/

namespace Sys2Proof.Machine

/-- R121 Add(x, y): VF = carry, Vx = the sum modulo 256. -/
def execAdd (x y : Nibble) (s : State) : Host.Outcome State Fault Refusal :=
  let a := s.reg x
  let b := s.reg y
  .next (writeFlagged (carryFlag a b) x (sumByte a b) s)

/-- R122 AddImm(x, nn): wraps silently, no flag. -/
def execAddImm (x : Nibble) (nn : Byte) (s : State) : Host.Outcome State Fault Refusal :=
  .next (writeReg x (sumByte (s.reg x) nn) s)

/-- R123 Sub(x, y): VF = (Vx > Vy), Vx = the difference modulo 256. -/
def execSub (x y : Nibble) (s : State) : Host.Outcome State Fault Refusal :=
  let a := s.reg x
  let b := s.reg y
  .next (writeFlagged (greaterFlag a b) x (diffByte a b) s)

/-- R124 SubRev(x, y): VF = (Vy > Vx), Vx = Vy minus Vx modulo 256. -/
def execSubRev (x y : Nibble) (s : State) : Host.Outcome State Fault Refusal :=
  let a := s.reg x
  let b := s.reg y
  .next (writeFlagged (greaterFlag b a) x (diffByte b a) s)

/-- R125 Or(x, y): no flag. -/
def execOr (x y : Nibble) (s : State) : Host.Outcome State Fault Refusal :=
  .next (writeReg x (s.reg x ||| s.reg y) s)

/-- R126 And(x, y): no flag. -/
def execAnd (x y : Nibble) (s : State) : Host.Outcome State Fault Refusal :=
  .next (writeReg x (s.reg x &&& s.reg y) s)

/-- R127 Xor(x, y): no flag. -/
def execXor (x y : Nibble) (s : State) : Host.Outcome State Fault Refusal :=
  .next (writeReg x (s.reg x ^^^ s.reg y) s)

/-- R128 ShiftRight(x, y): Vx in place, y ignored (decision D10, log 10); VF = the low bit. -/
def execShiftRight (x _y : Nibble) (s : State) : Host.Outcome State Fault Refusal :=
  let a := s.reg x
  .next (writeFlagged (lowBitFlag a) x (halfByte a) s)

/-- R129 ShiftLeft(x, y): Vx in place, y ignored (decision D10, log 10); VF = Vx under
SHL_FLAG_MASK. -/
def execShiftLeft (x _y : Nibble) (s : State) : Host.Outcome State Fault Refusal :=
  let a := s.reg x
  .next (writeFlagged (shiftLeftFlag s.cfg a) x (doubleByte a) s)

end Sys2Proof.Machine
end

