-- ==== Sys2Proof/Machine/ControlFlow.lean ====
section
/-!
DEFINITION. The control-flow instructions (spec 40_control_flow.md R100 to R103).
-/

namespace Sys2Proof.Machine

/-- R100 Jump(nnn): `pc <- nnn`; the target is not checked. -/
def execJump (nnn : Addr12) (s : State) : Host.Outcome State Fault Refusal :=
  .next (s.goto (absAddr nnn))

/-- R101 Call(nnn): push the address of the Call itself, then `pc <- nnn`; StackOverflow first. -/
def execCall (nnn : Addr12) (s : State) : Host.Outcome State Fault Refusal :=
  match s.push s.pc with
  | .ok t => .next (t.goto (absAddr nnn))
  | .error f => raise f s

/-- R102 Return: `pc <- Pop() + 2`; StackUnderflow on an empty stack. The sum fits 16 bits in every
state a run reaches (log 25). -/
def execRet (s : State) : Host.Outcome State Fault Refusal :=
  match s.pop with
  | .ok (a, t) => .next (t.goto (a + 2))
  | .error f => raise f s

/-- R103 JumpIndexed(nnn): `pc <- nnn + V[0]`, never Vx. -/
def execJumpIndexed (nnn : Addr12) (s : State) : Host.Outcome State Fault Refusal :=
  .next (s.goto (indexedTarget nnn s))

end Sys2Proof.Machine
end

