-- ==== Sys2Proof/Machine/Drawing.lean ====
section
/-!
DEFINITION. The drawing instructions (spec 45_drawing.md R160, R161). Coordinates are reduced modulo
64 and 32 pixel by pixel (decision D12, log 11), so no pixel access is out of range (R64).
-/

namespace Sys2Proof.Machine

/-- The pixel at column `px`, row `py`, reduced modulo the screen size. -/
def fbPixel (fb : Framebuffer) (px py : Nat) : Bool :=
  (fb[py % 32]'(Nat.mod_lt _ (by decide)))[px % 64]'(Nat.mod_lt _ (by decide))

/-- The framebuffer with one pixel set. -/
def fbSet (fb : Framebuffer) (px py : Nat) (b : Bool) : Framebuffer :=
  fb.set (py % 32)
    ((fb[py % 32]'(Nat.mod_lt _ (by decide))).set (px % 64) b (Nat.mod_lt _ (by decide)))
    (Nat.mod_lt _ (by decide))

/-- R160, the innermost step: sprite bit `7 - col` of `b` (bit 7 leftmost, decision D13, log 11)
toggles its pixel; the second component is the collision so far. -/
def blitBit (cx py : Nat) (b : Byte) (col : Nat) (acc : Framebuffer × Bool) : Framebuffer × Bool :=
  if b.getLsbD (7 - col) then
    (fbSet acc.1 (cx + col) py (!fbPixel acc.1 (cx + col) py),
      acc.2 || fbPixel acc.1 (cx + col) py)
  else acc

/-- R160, `for col from 0 to k - 1` of one row. -/
def blitCols (cx py : Nat) (b : Byte) : Nat → Framebuffer × Bool → Framebuffer × Bool
  | 0, acc => acc
  | k + 1, acc => blitBit cx py b k (blitCols cx py b k acc)

/-- R160, `for row from 0 to k - 1`; `sprite row` is the byte read for that row. -/
def blitRows (cx cy : Nat) (sprite : Nat → Byte) :
    Nat → Framebuffer × Bool → Framebuffer × Bool
  | 0, acc => acc
  | k + 1, acc => blitCols cx (cy + k) (sprite k) 8 (blitRows cx cy sprite k acc)

/-- R160 after its range check: both coordinates are read first; VF is written last, always. -/
def drawSprite (x y n : Nibble) (s : State) : State :=
  let r := blitRows (s.reg x).toNat (s.reg y).toNat (fun row => s.peek (s.index.toNat + row))
    n.toNat (s.fb, false)
  writeReg 0xF (flagByte r.2) (s.setFb r.1)

/-- R160 Draw(x, y, n): n sprite bytes at I; with n = 0 no byte is read and nothing can fault. -/
def execDraw (x y n : Nibble) (s : State) : Host.Outcome State Fault Refusal :=
  withIndexRange n.toNat s (drawSprite x y n)

/-- Every pixel off. -/
def blankFb : Framebuffer :=
  Vector.replicate 32 (Vector.replicate 64 false)

/-- R161 ClearScreen: VF is not written. -/
def execClearScreen (s : State) : Host.Outcome State Fault Refusal :=
  .next (s.setFb blankFb).advance

end Sys2Proof.Machine
end

