-- ==== Sys2Proof/Machine/KeyTimer.lean ====
section
/-!
DEFINITION. The keyboard and timer instructions (spec 46_keyboard_timers.md R170 to R175). None is
privileged (60_exceptions.md R213), none writes VF as a flag.
-/

namespace Sys2Proof.Machine

/-- R170 SkipKeyPressed(x). -/
def execSkipKeyPressed (x : Nibble) (s : State) : Host.Outcome State Fault Refusal :=
  match keyOperand x s with
  | .ok k => .next (skipIf (s.key k) s)
  | .error f => raise f s

/-- R171 SkipKeyNotPressed(x). -/
def execSkipKeyNotPressed (x : Nibble) (s : State) : Host.Outcome State Fault Refusal :=
  match keyOperand x s with
  | .ok k => .next (skipIf (!s.key k) s)
  | .error f => raise f s

/-- R172 WaitForKey(x): latch the destination register; `pc <- PC + 2` (decision D18, log 15). Vx is
written later, by the key event. -/
def execWaitForKey (x : Nibble) (s : State) : Host.Outcome State Fault Refusal :=
  .next (s.setWait (some x)).advance

/-- R173 LoadDelay(x): DT as this step's own tick has left it. -/
def execLoadDelay (x : Nibble) (s : State) : Host.Outcome State Fault Refusal :=
  .next (writeReg x s.dt s)

/-- R174 SetDelay(x). -/
def execSetDelay (x : Nibble) (s : State) : Host.Outcome State Fault Refusal :=
  .next (s.setDelay (s.reg x)).advance

/-- R175 SetSound(x). -/
def execSetSound (x : Nibble) (s : State) : Host.Outcome State Fault Refusal :=
  .next (s.setSound (s.reg x)).advance

end Sys2Proof.Machine
end

