-- ==== Sys2Proof/Machine/LoadMove.lean ====
section
/-!
DEFINITION. Immediate load, register move and random (spec 43_load_move_random.md R140 to R142).
-/

namespace Sys2Proof.Machine

/-- R140 LoadImm(x, nn). -/
def execLoadImm (x : Nibble) (nn : Byte) (s : State) : Host.Outcome State Fault Refusal :=
  .next (writeReg x nn s)

/-- R141 Move(x, y). -/
def execMove (x y : Nibble) (s : State) : Host.Outcome State Fault Refusal :=
  .next (writeReg x (s.reg y) s)

/-- R142 with the drawn byte as an argument: one draw, also when nn = 0; `V[x] <- r AND nn`. -/
def loadRandWith (r : Byte) (x : Nibble) (nn : Byte) (s : State) : State :=
  writeReg x (r &&& nn) s.takeRandom

/-- R142 LoadRand(x, nn): the byte is the next one of the external source (log 7). -/
def execLoadRand (x : Nibble) (nn : Byte) (s : State) : Host.Outcome State Fault Refusal :=
  .next (loadRandWith s.nextRandom x nn s)

end Sys2Proof.Machine
end

