-- ==== Sys2Proof/Machine/MemIndexed.lean ====
section
/-!
DEFINITION. The index-register and memory instructions (spec 44_memory_indexed.md R150 to R155). The
memory instructions leave I unchanged and write no flag.
-/

namespace Sys2Proof.Machine

/-- R150 LoadIndex(nnn). -/
def execLoadIndex (nnn : Addr12) (s : State) : Host.Outcome State Fault Refusal :=
  .next (s.setIndex (absAddr nnn)).advance

/-- R151 AddIndex(x): IndexOverflow when I + Vx exceeds 0xFFFF (decision D15, log 12); no flag. -/
def execAddIndex (x : Nibble) (s : State) : Host.Outcome State Fault Refusal :=
  let sum := s.index.toNat + (s.reg x).toNat
  if sum > 0xFFFF then raise .indexOverflow s
  else .next (s.setIndex (BitVec.ofNat 16 sum)).advance

/-- R152 LoadFont(x): `I <- 5 * V[x]`, the whole register value (decision D16, log 13). -/
def execLoadFont (x : Nibble) (s : State) : Host.Outcome State Fault Refusal :=
  .next (s.setIndex (BitVec.ofNat 16 (glyphBytes * (s.reg x).toNat))).advance

/-- R153: the three digits of a value, hundreds, tens, ones, at I, I + 1, I + 2. -/
def storeDigits (v : Byte) (s : State) : State :=
  ((s.poke s.index.toNat (BitVec.ofNat 8 (v.toNat / 100))).poke
    (s.index.toNat + 1) (BitVec.ofNat 8 (v.toNat / 10 % 10))).poke
    (s.index.toNat + 2) (BitVec.ofNat 8 (v.toNat % 10))

/-- R153 StoreBCD(x). -/
def execStoreBCD (x : Nibble) (s : State) : Host.Outcome State Fault Refusal :=
  withIndexRange 3 s (fun t => (storeDigits (t.reg x) t).advance)

/-- R154: store V[0] to V[count-1] at I on, ascending. -/
def dumpRegs : Nat → State → State
  | 0, s => s
  | k + 1, s =>
    let t := dumpRegs k s
    t.poke (t.index.toNat + k) (t.reg (BitVec.ofNat 4 k))

/-- R154 RegDump(x): V0 to Vx inclusive; I unchanged. -/
def execRegDump (x : Nibble) (s : State) : Host.Outcome State Fault Refusal :=
  withIndexRange (regCount x) s (fun t => (dumpRegs (regCount x) t).advance)

/-- R155: load V[0] to V[count-1] from I on, ascending. -/
def loadRegs : Nat → State → State
  | 0, s => s
  | k + 1, s =>
    let t := loadRegs k s
    t.setReg (BitVec.ofNat 4 k) (t.peek (t.index.toNat + k))

/-- R155 RegLoad(x): V0 to Vx inclusive; I and memory unchanged. -/
def execRegLoad (x : Nibble) (s : State) : Host.Outcome State Fault Refusal :=
  withIndexRange (regCount x) s (fun t => (loadRegs (regCount x) t).advance)

end Sys2Proof.Machine
end

