-- ==== Sys2Proof/Machine/Skip.lean ====
section
/-!
DEFINITION. The conditional-skip instructions (spec 41_conditional_skip.md R110 to R113). None writes
a register, none can fault.
-/

namespace Sys2Proof.Machine

/-- R110 SkipEqImm(x, nn). -/
def execSkipEqImm (x : Nibble) (nn : Byte) (s : State) : Host.Outcome State Fault Refusal :=
  .next (skipIf (s.reg x == nn) s)

/-- R111 SkipNeImm(x, nn). -/
def execSkipNeImm (x : Nibble) (nn : Byte) (s : State) : Host.Outcome State Fault Refusal :=
  .next (skipIf (s.reg x != nn) s)

/-- R112 SkipEqReg(x, y). -/
def execSkipEqReg (x y : Nibble) (s : State) : Host.Outcome State Fault Refusal :=
  .next (skipIf (s.reg x == s.reg y) s)

/-- R113 SkipNeReg(x, y). -/
def execSkipNeReg (x y : Nibble) (s : State) : Host.Outcome State Fault Refusal :=
  .next (skipIf (s.reg x != s.reg y) s)

end Sys2Proof.Machine
end

