-- ==== Sys2Proof/Machine/Dispatch.lean ====
section
/-!
DEFINITION. One arm per instruction (spec 30_encoding.md R73), each a direct call of its meaning.
-/

namespace Sys2Proof.Machine

def exec (i : Instr) (s : State) : Host.Outcome State Fault Refusal :=
  match i with
  | .clearScreen => Sys2Proof.Machine.execClearScreen s
  | .ret => Sys2Proof.Machine.execRet s
  | .jump nnn => Sys2Proof.Machine.execJump nnn s
  | .call nnn => Sys2Proof.Machine.execCall nnn s
  | .skipEqImm x nn => Sys2Proof.Machine.execSkipEqImm x nn s
  | .skipNeImm x nn => Sys2Proof.Machine.execSkipNeImm x nn s
  | .skipEqReg x y => Sys2Proof.Machine.execSkipEqReg x y s
  | .loadImm x nn => Sys2Proof.Machine.execLoadImm x nn s
  | .addImm x nn => Sys2Proof.Machine.execAddImm x nn s
  | .move x y => Sys2Proof.Machine.execMove x y s
  | .or x y => Sys2Proof.Machine.execOr x y s
  | .and x y => Sys2Proof.Machine.execAnd x y s
  | .xor x y => Sys2Proof.Machine.execXor x y s
  | .add x y => Sys2Proof.Machine.execAdd x y s
  | .sub x y => Sys2Proof.Machine.execSub x y s
  | .shiftRight x y => Sys2Proof.Machine.execShiftRight x y s
  | .subRev x y => Sys2Proof.Machine.execSubRev x y s
  | .shiftLeft x y => Sys2Proof.Machine.execShiftLeft x y s
  | .skipNeReg x y => Sys2Proof.Machine.execSkipNeReg x y s
  | .loadIndex nnn => Sys2Proof.Machine.execLoadIndex nnn s
  | .jumpIndexed nnn => Sys2Proof.Machine.execJumpIndexed nnn s
  | .loadRand x nn => Sys2Proof.Machine.execLoadRand x nn s
  | .draw x y n => Sys2Proof.Machine.execDraw x y n s
  | .skipKeyPressed x => Sys2Proof.Machine.execSkipKeyPressed x s
  | .skipKeyNotPressed x => Sys2Proof.Machine.execSkipKeyNotPressed x s
  | .loadDelay x => Sys2Proof.Machine.execLoadDelay x s
  | .waitForKey x => Sys2Proof.Machine.execWaitForKey x s
  | .setDelay x => Sys2Proof.Machine.execSetDelay x s
  | .setSound x => Sys2Proof.Machine.execSetSound x s
  | .addIndex x => Sys2Proof.Machine.execAddIndex x s
  | .loadFont x => Sys2Proof.Machine.execLoadFont x s
  | .storeBCD x => Sys2Proof.Machine.execStoreBCD x s
  | .regDump x => Sys2Proof.Machine.execRegDump x s
  | .regLoad x => Sys2Proof.Machine.execRegLoad x s

end Sys2Proof.Machine
end

