-- ==== Sys2Proof/Machine/Controller.lean ====
section
/-!
DEFINITION. The fetch-decode-execute controller (spec 47_controller.md R180 to R184, R191) and the
placing of an instruction where it fetches.
-/

namespace Sys2Proof.Machine

/-- R180 from the fetch on: fetch, decode, execute. A fault of the fetch or of the decoder is raised
(R182, R201); a fault of the instruction is raised by its meaning. The stages run in this order,
which is the priority of R208 (decision D8, log 24). -/
def fetchExecute (s : State) : Host.Outcome State Fault Refusal :=
  match s.fetch with
  | .error f => raise f s
  | .ok w =>
    match decode s.cfg.decStrict w with
    | .error _ => raise (.decodeFailure w) s
    | .ok i => exec i s

/-- R180 Step, in its order: a halted machine does nothing, not even tick (R191); the tick (R181); a
blocked step stops there (R184); then fetch, decode and execute. -/
def controllerStep (s : State) : Host.Outcome State Fault Refusal :=
  if s.fault.isSome then .next s
  else if s.tick.wait.isSome then .next s.tick
  else fetchExecute s.tick

/-- A word written at PC and PC + 1, high byte first (R52), in a machine that is neither halted nor
waiting, so that its next step fetches that word (log 29). -/
def placeWord (s : State) (w : Word) : State :=
  let t := (s.poke s.pc.toNat (w.extractLsb' 8 8)).poke (s.pc.toNat + 1) (w.extractLsb' 0 8)
  { t with wait := none, fault := none }

end Sys2Proof.Machine
end

