-- ==== Sys2Proof/Machine/Step.lean ====
section
/-!
DEFINITION. The step of the machine (spec 47_controller.md R180).
-/

namespace Sys2Proof.Machine

/-- One Step (R180). -/
def step (s : State) : Host.Outcome State Fault Refusal :=
  controllerStep s

/-- `s` with the instruction whose bits are `w` (numbered as spec/opcode_table.json numbers them,
every bit from `nbits` up zero) stored where `step` fetches next; WAIT and FAULT are cleared, since
a waiting or halted machine fetches nothing (log 29). -/
def State.withFetchWord (s : State) (nbits w : Nat) : State :=
  placeWord s (BitVec.ofNat 16 (w % 2 ^ nbits))

end Sys2Proof.Machine
end

