-- ==== Sys2Proof/Machine/HostInterface.lean ====
section
/-!
DEFINITION. The host's operations on the core (spec 47_controller.md R185 to R190, R193 and
70_reset_and_hazards.md R230, R231). They fall between steps, never inside one (R189, R237, decision
D25, log 22), and are not instructions.
-/

namespace Sys2Proof.Machine

/-! ### Construct -/

/-- Copy bytes into memory from an address on, in order. -/
def loadBytes (cfg : Config) : Nat → List Byte → Memory → Memory
  | _, [], m => m
  | a, b :: bs, m => loadBytes cfg (a + 1) bs (memWrite cfg m a b)

/-- R230 Construct(image), the only reset; R231: an image longer than 3584 bytes is refused and there
is no machine (decision D24, log 21). -/
def construct (cfg : Config) (image : List Byte) : Host.Outcome State Fault Refusal :=
  if image.length > progMax then .refused (.imageTooLong image.length)
  else .next { State.initial cfg with mem := loadBytes cfg progBase image [] }

/-! ### RunCycle -/

/-- R185 RunCycle(N): Step N times in sequence. A halted machine's steps do nothing, so the rest of a
batch after a fault does nothing (decision D29, log 32). -/
def runCycle : Nat → State → Host.Outcome State Fault Refusal
  | 0, s => .next s
  | n + 1, s =>
    match step s with
    | .next t => runCycle n t
    | .fault f => .fault f
    | .refused r => .refused r

/-- `p / 2^d` rounded to the nearest integer, ties to the even one (IEEE 754). -/
def roundHalfEven (p d : Nat) : Nat :=
  if d = 0 then p
  else
    let q := p / 2 ^ d
    let r := p % 2 ^ d
    if 2 ^ (d - 1) < r ∨ (r = 2 ^ (d - 1) ∧ q % 2 = 1) then q + 1 else q

/-- `q * 2^j` rounded to the nearest integer, ties away from zero (decision D20, log 17). -/
def roundHalfAway (q : Nat) (j : Int) : Nat :=
  if 0 ≤ j then q * 2 ^ j.toNat
  else (q + 2 ^ ((-j).toNat - 1)) / 2 ^ (-j).toNat

/-- The significand of a binary64 value given by its bits. -/
def binary64Mant (e : BitVec 64) : Nat :=
  if (e.extractLsb' 52 11).toNat = 0 then (e.extractLsb' 0 52).toNat
  else 2 ^ 52 + (e.extractLsb' 0 52).toNat

/-- The exponent of a binary64 value given by its bits: the value is the significand times 2 to this. -/
def binary64Exp (e : BitVec 64) : Int :=
  if (e.extractLsb' 52 11).toNat = 0 then -1074 else ((e.extractLsb' 52 11).toNat : Int) - 1075

/-- R186: `N = round(elapsed_seconds * 600)`, the product the binary64 product, the argument given
by its 64 bits. `none` outside the domain: infinite, not a number, negative, or a product past the
largest binary64 value (U12, log 17). -/
def stepCount (e : BitVec 64) : Option Nat :=
  let m := binary64Mant e
  let p := m * stepRate
  let drop := Nat.log2 p - 52
  let q := roundHalfEven p drop
  let j := binary64Exp e + (drop : Int)
  if (e.extractLsb' 52 11).toNat = 2047 then none
  else if e.getLsbD 63 ∧ m ≠ 0 then none
  else if 0 ≤ j ∧ 2 ^ 1024 ≤ q * 2 ^ j.toNat then none
  else some (roundHalfAway q j)

/-- R186: `run_cycle(elapsed_seconds) = RunCycle(N)`. -/
def runCycleSeconds (e : BitVec 64) (s : State) : Host.Outcome State Fault Refusal :=
  match stepCount e with
  | some n => runCycle n s
  | none => .refused .elapsedOutOfDomain

/-! ### Key events -/

/-- R187 for a key number 0 to 15: set the flag; if the machine waits, deliver the key number and end
the wait. -/
def pressKey (k : Nibble) (s : State) : State :=
  match s.wait with
  | none => s.setKey k true
  | some r => ((s.setKey k true).setReg r (k.setWidth 8)).setWait none

/-- R187 KeyPress(k); a number above 15 is no legal input (decision D19, log 16). -/
def keyPress (k : Nat) (s : State) : Host.Outcome State Fault Refusal :=
  if k ≤ 15 then .next (pressKey (BitVec.ofNat 4 k) s) else .refused (.keyOutOfRange k)

/-- R188 KeyRelease(k): clears the flag and nothing else, also during a wait (decision D19, log 16). -/
def keyRelease (k : Nat) (s : State) : Host.Outcome State Fault Refusal :=
  if k ≤ 15 then .next (s.setKey (BitVec.ofNat 4 k) false) else .refused (.keyOutOfRange k)

/-! ### The random input -/

/-- R193 RandomByte (input): the host supplies bytes, each to be drawn by one LoadRand, in order. -/
def supplyRandom (bytes : List Byte) (s : State) : Host.Outcome State Fault Refusal :=
  .next (s.supplyRandom bytes)

/-- R142, "A model makes the step take the byte as an argument": a Step that draws `r` if it draws. The
byte is of this step alone; the pending ones are as before after it. -/
def stepWith (r : Byte) (s : State) : Host.Outcome State Fault Refusal :=
  match step (s.setRandom [r]) with
  | .next t => .next (t.setRandom s.random)
  | .fault f => .fault f
  | .refused x => .refused x

/-- One Step for each byte of a stream (decision D28), the step drawing that byte if it draws. -/
def runCycleWith : List Byte → State → Host.Outcome State Fault Refusal
  | [], s => .next s
  | r :: rs, s =>
    match stepWith r s with
    | .next t => runCycleWith rs t
    | .fault f => .fault f
    | .refused x => .refused x

/-! ### Reading the framebuffer, and histories -/

/-- R190 ReadFramebuffer: the grid as it stands; no state changes. -/
def readFramebuffer (s : State) : Framebuffer :=
  s.fb

/-- R193: the host's moves on a machine that exists, the supply of random bytes among them. -/
inductive HostMove where
  | runCycle (n : Nat)
  | runCycleWith (bytes : List Byte)
  | keyPress (k : Nat)
  | keyRelease (k : Nat)
  | readFramebuffer
  | supplyRandom (bytes : List Byte)
  deriving DecidableEq, Repr

/-- R189: each move is complete before the next starts. -/
def performMove : HostMove → State → Host.Outcome State Fault Refusal
  | .runCycle n, s => runCycle n s
  | .runCycleWith bytes, s => runCycleWith bytes s
  | .keyPress k, s => keyPress k s
  | .keyRelease k, s => keyRelease k s
  | .readFramebuffer, s => .next s
  | .supplyRandom bytes, s => supplyRandom bytes s

/-- R189: a history of a machine, any sequence of moves in any order and number. -/
def performMoves : List HostMove → State → Host.Outcome State Fault Refusal
  | [], s => .next s
  | m :: ms, s =>
    match performMove m s with
    | .next t => performMoves ms t
    | .fault f => .fault f
    | .refused r => .refused r

end Sys2Proof.Machine
end

