-- ==== Sys2Proof/Safety.lean ====
section
/-!
DEFINITION. What counts as a safe run, in the terms the statements use: the parts of the state a frame
speaks of, the invariant of every reachable state (spec 10_state.md R37), which instruction a step
executes (47_controller.md R180), the fault each instruction raises (60_exceptions.md R200), what it may
write (10_state.md R36), and the shapes of result the statements share.
-/

namespace Sys2Proof.Machine

/-- The parts of the state, PC apart, that an instruction may leave unchanged. -/
inductive Part where
  | regs
  | index
  | stack
  | dt
  | st
  | keys
  | wait
  | fb
  | fault
  | mem
  | cfg
  | draws
  | random
  deriving DecidableEq, Repr

/-- `t` has this part as `s` has it. Registers and memory are compared through their reads. -/
def Part.same (s t : State) : Part → Prop
  | .regs => ∀ r : Nibble, t.reg r = s.reg r
  | .index => t.index = s.index
  | .stack => t.stack = s.stack ∧ t.sp = s.sp
  | .dt => t.dt = s.dt
  | .st => t.st = s.st
  | .keys => t.keys = s.keys
  | .wait => t.wait = s.wait
  | .fb => t.fb = s.fb
  | .fault => t.fault = s.fault
  | .mem => ∀ a : Nat, t.peek a = s.peek a
  | .cfg => t.cfg = s.cfg
  | .draws => t.draws = s.draws
  | .random => t.random = s.random

/-- From `s` to `t` every part is unchanged except those listed (and PC). -/
def OnlyChanges (parts : List Part) (s t : State) : Prop :=
  ∀ p : Part, p ∉ parts → p.same s t

/-- Every general register is unchanged except those listed. -/
def RegsKeptExcept (ds : List Nibble) (s t : State) : Prop :=
  ∀ r : Nibble, r ∉ ds → t.reg r = s.reg r

/-- Every byte of memory is unchanged except the `count` bytes from `base` on. -/
def MemKeptOutside (base count : Nat) (s t : State) : Prop :=
  ∀ a : Nat, ¬(base ≤ a ∧ a < base + count) → t.peek a = s.peek a

/-- The memory list of the state is in its canonical form. -/
def State.MemOk (s : State) : Prop :=
  memWf s.cfg s.mem = true

/-- A word can be fetched at PC: both its bytes are inside memory. Whenever a step executes an
instruction this holds (R182), so PC + 4 does not pass 4098 (R23, 41_conditional_skip.md). -/
def State.Fetchable (s : State) : Prop :=
  s.pc.toNat + 1 ≤ 4095

/-- R37, the invariant of every reachable state, less what the types already say (SP at most 16,
registers of 8 bits, WAIT a register number): PC at most 0x10FE; every stack entry in use at most
4094, the address of a Call that was fetched (R102); no wait in a halted machine (R187, R239);
memory in canonical form (the model's own). -/
structure State.Inv (s : State) : Prop where
  pc_le : s.pc.toNat ≤ 0x10FE
  entries_le : ∀ k : Fin 16, k.val < s.sp.val → (s.stack[k.val]).toNat ≤ 4094
  halted_not_waiting : s.fault ≠ none → s.wait = none
  mem_ok : s.MemOk

/-- The word a fetch at PC assembles, big-endian (R52). -/
def State.wordAtPc (s : State) : Word :=
  wordOfBytes (s.peek s.pc.toNat) (s.peek (s.pc.toNat + 1))

/-- A step of `s` executes the instruction `i`: the machine is neither halted nor blocked, and the
word at PC is fetched and decodes to `i` (R180). -/
structure State.Executes (s : State) (i : Instr) : Prop where
  running : s.fault = none
  unblocked : s.wait = none
  fetchable : s.Fetchable
  decodes : decode s.cfg.decStrict s.wordAtPc = .ok i

/-- R54, R204: OutOfRange(mem, a) with a the first of `base .. base+count-1` that exceeds 4095. -/
def memFault (base count : Nat) : Option Fault :=
  (((List.range count).map (base + ·)).find? (fun a => decide (a > 4095))).map (.outOfRange .mem)

/-- R170, R171, R204: OutOfRange(key, k) with k the key number above 15. -/
def keyFault (k : Byte) : Option Fault :=
  if k.toNat > 15 then some (.outOfRange .key k.toNat) else none

/-- R200, R208: the one fault an instruction raises, and when; no other instruction raises any. -/
def faultOf (i : Instr) (s : State) : Option Fault :=
  match i with
  | .call _ => if s.sp.val = 16 then some .stackOverflow else none
  | .ret => if s.sp.val = 0 then some .stackUnderflow else none
  | .addIndex x =>
    if s.index.toNat + (s.reg x).toNat > 0xFFFF then some .indexOverflow else none
  | .storeBCD _ => memFault s.index.toNat 3
  | .regDump x | .regLoad x => memFault s.index.toNat (x.toNat + 1)
  | .draw _ _ n => memFault s.index.toNat n.toNat
  | .skipKeyPressed x | .skipKeyNotPressed x => keyFault (s.reg x)
  | _ => none

/-- A run of `n` steps is safe when it ends in a machine that has not halted (R191: "every claim about
a program takes "FAULT = none" among its conclusions or premises"). -/
def SafeFor (n : Nat) (s : State) : Prop :=
  ∃ t, runCycle n s = .next t ∧ t.fault = none

/-- R78: the bits the decoder need not examine are zero (n1 of format Z, n3 of top nibbles 5 and 9). -/
def CanonicalWord (w : Word) : Prop :=
  (nib0 w = 0x0 → nib1 w = 0x0) ∧ (nib0 w = 0x5 ∨ nib0 w = 0x9 → nib3 w = 0x0)

/-- R36: the parts of the state an instruction may write; the fault latch is in the list of the
instructions R200 names, `draws` and `random` are the random input LoadRand draws
from. -/
def partsWritten : Instr → List Part
  | .clearScreen => [.fb]
  | .draw _ _ _ => [.fb, .regs, .fault]
  | .ret | .call _ => [.stack, .fault]
  | .jump _ | .jumpIndexed _ | .skipEqImm _ _ | .skipNeImm _ _ | .skipEqReg _ _ | .skipNeReg _ _ => []
  | .loadImm _ _ | .addImm _ _ | .move _ _ | .or _ _ | .and _ _ | .xor _ _ | .add _ _ | .sub _ _
  | .shiftRight _ _ | .subRev _ _ | .shiftLeft _ _ | .loadDelay _ => [.regs]
  | .loadRand _ _ => [.regs, .draws, .random]
  | .loadIndex _ | .loadFont _ => [.index]
  | .addIndex _ => [.index, .fault]
  | .skipKeyPressed _ | .skipKeyNotPressed _ => [.fault]
  | .waitForKey _ => [.wait]
  | .setDelay _ => [.dt]
  | .setSound _ => [.st]
  | .storeBCD _ | .regDump _ => [.mem, .fault]
  | .regLoad _ => [.regs, .fault]

/-- R21, R235: the registers an instruction may write: its named destination, and VF for the six
instructions that write it as a flag; RegLoad(x) writes V0 to Vx. -/
def mayWriteReg (r : Nibble) : Instr → Prop
  | .loadImm x _ | .addImm x _ | .move x _ | .or x _ | .and x _ | .xor x _ | .loadRand x _
  | .loadDelay x => r = x
  | .add x _ | .sub x _ | .subRev x _ | .shiftRight x _ | .shiftLeft x _ => r = x ∨ r = 0xF
  | .draw _ _ _ => r = 0xF
  | .regLoad x => r.toNat ≤ x.toNat
  | _ => False

/-- Two states that differ at most in stack entries at or above SP. -/
def SameButDeadEntries (s t : State) : Prop :=
  t = { s with stack := t.stack } ∧ ∀ k : Fin 16, k.val < s.sp.val → t.stack[k.val] = s.stack[k.val]

/-- R120 (d), (e): what a flag-writing instruction leaves in the registers: Vx the result, VF the flag
unless x = 0xF, where the result stays (decision D9, log 9); every other register unchanged; PC + 2. -/
def FlaggedResult (i : Instr) (x : Nibble) (s : State) (result flag : Nat) : Prop :=
  ∃ t, exec i s = .next t ∧ (t.reg x).toNat = result ∧
    (x ≠ 0xF → (t.reg 0xF).toNat = flag) ∧ RegsKeptExcept [x, 0xF] s t ∧
    OnlyChanges [.regs] s t ∧ t.pc.toNat = s.pc.toNat + 2

/-- What an instruction with a destination and no flag leaves: Vx the result, every other register, VF
among them, unchanged; PC + 2. -/
def PlainResult (i : Instr) (x : Nibble) (s : State) (result : Nat) : Prop :=
  ∃ t, exec i s = .next t ∧ (t.reg x).toNat = result ∧ RegsKeptExcept [x] s t ∧
    OnlyChanges [.regs] s t ∧ t.pc.toNat = s.pc.toNat + 2

/-- R160: some 1 bit of the sprite falls on the pixel (px, py): row `row` below n and column `col` below 8
with px = (Vx + col) mod 64, py = (Vy + row) mod 32 and bit 7 - col of the byte at I + row set. -/
def SpriteCovers (x y n : Nibble) (s : State) (px py : Nat) : Prop :=
  ∃ row col : Nat, row < n.toNat ∧ col < 8 ∧
    px = ((s.reg x).toNat + col) % 64 ∧ py = ((s.reg y).toNat + row) % 32 ∧
    (s.peek (s.index.toNat + row)).getLsbD (7 - col) = true

end Sys2Proof.Machine
end

