-- ==== Sys2Proof/Certificates/Slice0/Obligations.lean ====
section
/-!
DEFINITION. The statements for the provers. Each docstring names the rule of spec/ it formalises; where a
clause rests on a decision of the spec (D<n>) or on general knowledge, the docstring says so. A fault
is the latched FAULT of R32 and R206 in every statement (decision D5, log 1); the encodings are stated
under "Encoding" alone (decision D1, log 8).
-/

open Sys2Proof Sys2Proof.Machine

/-! ### Encoding -/

/-- Words written out from R73 (the rows of 95_test_vectors.md DE1 and DE2) decode to the instructions
they stand for, one or more of every family. The bit patterns rest on decision D1 (log 8). -/
def Obligations.SampleWordsDecode : Prop :=
  decode false 0b0001101010111100#16 = .ok (.jump 0xABC) ∧
  decode false 0b0010101010111100#16 = .ok (.call 0xABC) ∧
  decode false 0b0011101010111100#16 = .ok (.skipEqImm 0xA 0xBC) ∧
  decode false 0b1001101010110000#16 = .ok (.skipNeReg 0xA 0xB) ∧
  decode false 0b1000101010110101#16 = .ok (.sub 0xA 0xB) ∧
  decode false 0b1100101010111100#16 = .ok (.loadRand 0xA 0xBC) ∧
  decode false 0b1111101000110011#16 = .ok (.storeBCD 0xA) ∧
  decode false 0b1101101010111100#16 = .ok (.draw 0xA 0xB 0xC) ∧
  decode false 0b1110101010100001#16 = .ok (.skipKeyNotPressed 0xA) ∧
  decode false 0b1111101000001010#16 = .ok (.waitForKey 0xA) ∧
  decode false 0b1000101010111000#16 = .error (.decodeFailure 0x8AB8)

/-- R83, "`decode(encode(i)) = i` for every Instruction i", with DEC_STRICT on or off. The spec marks
it derived (from R73, R78). -/
def Obligations.DecodeOfEncode : Prop :=
  ∀ (strict : Bool) (i : Instr), decode strict (encode i) = .ok i

/-- R83, "`encode(decode(w)) = w` for every canonical decodable word w"; and a word DEC_STRICT accepts
is canonical. The spec marks R83 derived, and DEC_STRICT is its decision D2. -/
def Obligations.EncodeOfDecode : Prop :=
  (∀ (strict : Bool) (w : Word) (i : Instr),
    decode strict w = .ok i → CanonicalWord w → encode i = w) ∧
  (∀ (w : Word) (i : Instr), decode true w = .ok i → CanonicalWord w)

/-- R73: a word decodes exactly when it selects a row of the opcode map, to an instruction of that
row's variant, and no word selects two rows. The bit patterns rest on decision D1 (log 8). -/
def Obligations.DecodeSelectsOneRow : Prop :=
  (∀ (strict : Bool) (w : Word) (i : Instr), decode strict w = .ok i →
    ∃ r ∈ opcodeRows, r.selects strict w = true ∧ r.variant = i.variant) ∧
  (∀ (strict : Bool) (w : Word) (r : Row), r ∈ opcodeRows → r.selects strict w = true →
    ∃ i, decode strict w = .ok i ∧ i.variant = r.variant) ∧
  (∀ (strict : Bool) (w : Word) (r r' : Row), r ∈ opcodeRows → r' ∈ opcodeRows →
    r.selects strict w = true → r'.selects strict w = true → r = r')

/-- R79, the table of failing words under the default DEC_STRICT = false: exactly these words fail, and
the failure names the word (R82). It rests on decisions D1 and D2 (logs 5, 8). -/
def Obligations.FailingWords : Prop :=
  ∀ w : Word, decode false w = .error (.decodeFailure w) ↔
    (nib0 w = 0x0 ∧ lowByte w ≠ 0xE0 ∧ lowByte w ≠ 0xEE) ∨
    (nib0 w = 0x8 ∧ nib3 w ∈ [0x8, 0x9, 0xA, 0xB, 0xC, 0xD, 0xF]) ∨
    (nib0 w = 0xE ∧ lowByte w ≠ 0x9E ∧ lowByte w ≠ 0xA1) ∨
    (nib0 w = 0xF ∧ lowByte w ∉ [0x07, 0x0A, 0x15, 0x18, 0x1E, 0x29, 0x33, 0x55, 0x65])

/-- R78: both settings of DEC_STRICT agree on every canonical word; every other word fails with
DEC_STRICT, and without it decodes as the word with those bits zero does. Decision D2 (log 5). -/
def Obligations.StrictDecoding : Prop :=
  (∀ w : Word, CanonicalWord w → decode true w = decode false w) ∧
  (∀ w : Word, ¬CanonicalWord w → decode true w = .error (.decodeFailure w)) ∧
  (∀ x y n : Nibble, decode false (0x5#4 ++ x ++ y ++ n) = .ok (.skipEqReg x y)) ∧
  (∀ x y n : Nibble, decode false (0x9#4 ++ x ++ y ++ n) = .ok (.skipNeReg x y)) ∧
  (∀ x : Nibble, decode false (0x0#4 ++ x ++ 0xE0#8) = .ok .clearScreen) ∧
  (∀ x : Nibble, decode false (0x0#4 ++ x ++ 0xEE#8) = .ok .ret)

/-- R86 (derived in the spec) with the source form of R84 (decision D27): a source line assembles exactly
when every operand is in its range, to the instruction whose source form it is; every instruction
has one. -/
def Obligations.AssemblyChecksRanges : Prop :=
  (∀ src : Source, src.wellFormed = true → ∃ i, assemble src = some i ∧ i.source = src) ∧
  (∀ src : Source, src.wellFormed = false → assemble src = none) ∧
  (∀ i : Instr, i.wellFormed = true ∧ assemble i.source = some i)

/-! ### The step -/

/-- R182 with R52, R54: the fetch reads the big-endian word at PC and PC + 1, whatever the parity of
PC; at 4095 and above a step of a running machine latches OutOfRange(mem, a), a the first of the
two addresses above 4095, after its tick. Decisions D21, D22, D31 (logs 18, 19). -/
def Obligations.FetchBigEndianOrOutOfRange : Prop :=
  (∀ s : State, s.Fetchable → ∃ w, s.fetch = .ok w ∧
    w.toNat = (s.peek s.pc.toNat).toNat * 256 + (s.peek (s.pc.toNat + 1)).toNat) ∧
  (∀ s : State, s.fault = none → s.wait = none → s.pc.toNat = 4095 →
    step s = .next { s.tick with fault := some (.outOfRange .mem 4096) }) ∧
  (∀ s : State, s.fault = none → s.wait = none → 4096 ≤ s.pc.toNat →
    step s = .next { s.tick with fault := some (.outOfRange .mem s.pc.toNat) })

/-- R180: when the machine is neither halted nor blocked and the word at PC decodes to `i`, the step is
`exec i` at the ticked state; the tick changes DT and ST alone. -/
def Obligations.StepRunsDecodedInstruction : Prop :=
  ∀ (s : State) (i : Instr), s.Executes i →
    step s = exec i s.tick ∧ s.tick.pc = s.pc ∧ OnlyChanges [.dt, .st] s s.tick

/-- R181: every step of a machine that is not halted takes one from DT and from ST, at zero none,
blocked or not and whether or not it faults; the only later write of the step is the one of the
executed SetDelay or SetSound; an executed LoadDelay reads the ticked value. -/
def Obligations.TickOpensEveryStep : Prop :=
  ∀ s t : State, s.fault = none → step s = .next t →
    ((∀ x, ¬s.Executes (.setDelay x)) → t.dt.toNat = s.dt.toNat - 1) ∧
    ((∀ x, ¬s.Executes (.setSound x)) → t.st.toNat = s.st.toNat - 1) ∧
    (∀ x, s.Executes (.setDelay x) → t.dt = s.reg x) ∧
    (∀ x, s.Executes (.setSound x) → t.st = s.reg x) ∧
    (∀ x, s.Executes (.loadDelay x) → (t.reg x).toNat = s.dt.toNat - 1)

/-- R184: a blocked step performs the tick and nothing else and cannot fault, and steps cannot unblock
the machine: after any number `n` of them DT and ST are each `n` lower, not below zero, PC and every
other part are unchanged and the machine still waits. The step that executes WaitForKey is no blocked
step: it ticks and advances PC by 2. Of the host's moves only a KeyPress unblocks. -/
def Obligations.BlockedStepsOnlyTick : Prop :=
  (∀ (s : State) (r : Nibble) (n : Nat), s.fault = none → s.wait = some r →
    ∃ t, runCycle n s = .next t ∧
      t.dt.toNat = s.dt.toNat - n ∧ t.st.toNat = s.st.toNat - n ∧
      t.pc = s.pc ∧ t.wait = some r ∧ t.fault = none ∧ OnlyChanges [.dt, .st] s t) ∧
  (∀ (s : State) (x : Nibble), s.Executes (.waitForKey x) → ∃ t, step s = .next t ∧
    t.dt.toNat = s.dt.toNat - 1 ∧ t.st.toNat = s.st.toNat - 1 ∧ t.wait = some x ∧
    t.pc.toNat = s.pc.toNat + 2) ∧
  (∀ (m : HostMove) (s t : State) (r : Nibble), s.fault = none → s.wait = some r →
    performMove m s = .next t → t.wait ≠ some r → ∃ k, m = .keyPress k)

/-- R201: a word that does not decode is raised as DecodeFailure(w) in the step that fetched it: DT and
ST ticked, PC still its address, everything else untouched. That the next step changes nothing, timers
included, is R191 with FAULT a latch (decision D5, log 1), not R201's own words. -/
def Obligations.DecodeFailureStep : Prop :=
  ∀ s : State, s.fault = none → s.wait = none → s.Fetchable →
    decode s.cfg.decStrict s.wordAtPc = .error (.decodeFailure s.wordAtPc) →
    ∃ t, step s = .next t ∧ t.fault = some (.decodeFailure s.wordAtPc) ∧
      t.dt.toNat = s.dt.toNat - 1 ∧ t.st.toNat = s.st.toNat - 1 ∧ t.pc = s.pc ∧
      OnlyChanges [.dt, .st, .fault] s t ∧ step t = .next t

/-- R11 (decision D5, log 1): every operation of the running machine yields a next state, a fault being
one whose latch is set; a step, an instruction and a batch never answer anything else. -/
def Obligations.EveryStepAnswersNext : Prop :=
  (∀ (i : Instr) (s : State), ∃ t, exec i s = .next t) ∧
  (∀ s : State, ∃ t, step s = .next t) ∧
  (∀ (n : Nat) (s : State), ∃ t, runCycle n s = .next t) ∧
  (∀ (bytes : List Byte) (s : State), ∃ t, runCycleWith bytes s = .next t)

/-- R200, R204, R208 with decisions D7, D15, D17, D21 (logs 12, 14, 18, 24): each instruction raises the
one fault of the table, exactly when the table says, reporting the lowest offending address; it
then changes nothing but the latch. Every other instruction raises none. -/
def Obligations.FaultTable : Prop :=
  ∀ (i : Instr) (s : State), s.fault = none →
    (∀ f, faultOf i s = some f → exec i s = .next { s with fault := some f }) ∧
    (faultOf i s = none → ∃ t, exec i s = .next t ∧ t.fault = none)

/-- R207 (decisions D7, D30, log 24): at a fault the state is exactly the state before the step, plus
that step's tick, plus FAULT. -/
def Obligations.FaultsArePrecise : Prop :=
  ∀ (s t : State) (f : Fault), s.fault = none → step s = .next t → t.fault = some f →
    t = { s.tick with fault := some f }

/-- R191, R239, R187, R188 (decision D5, log 1): a halted machine's steps and batches change nothing,
timers included, and no key event clears the fault; a key event, press or release, changes KEY alone.
For a press that needs the invariant (a halted machine does not wait), for a release it does not. -/
def Obligations.HaltedMachineStandsStill : Prop :=
  ∀ s : State, s.fault ≠ none →
    step s = .next s ∧ (∀ n, runCycle n s = .next s) ∧
    (∀ (k : Nat) (t : State), keyPress k s = .next t → t.fault = s.fault) ∧
    (∀ (k : Nat) (t : State), keyRelease k s = .next t →
      t.fault = s.fault ∧ t.pc = s.pc ∧ OnlyChanges [.keys] s t) ∧
    (s.Inv → ∀ (k : Nat) (t : State), keyPress k s = .next t →
      t.pc = s.pc ∧ OnlyChanges [.keys] s t)

/-- R183: the next PC of every instruction that completes: nnn (Jump, Call), the popped address + 2
(Return), nnn + V0 (JumpIndexed), PC + 4 or PC + 2 (the six skips), PC + 2 (all others); an
instruction that faults leaves PC. The sums are integers: under the invariant none wraps. -/
def Obligations.NextPcValues : Prop :=
  ∀ (i : Instr) (s t : State), s.Inv → s.Fetchable → s.fault = none → exec i s = .next t →
    (t.fault ≠ none → t.pc = s.pc) ∧
    (t.fault = none → match i with
      | .jump nnn | .call nnn => t.pc.toNat = nnn.toNat
      | .ret => ∃ k : Fin 16, k.val + 1 = s.sp.val ∧ t.pc.toNat = (s.stack[k.val]).toNat + 2
      | .jumpIndexed nnn => t.pc.toNat = nnn.toNat + (s.reg 0).toNat
      | .skipEqImm _ _ | .skipNeImm _ _ | .skipEqReg _ _ | .skipNeReg _ _
      | .skipKeyPressed _ | .skipKeyNotPressed _ =>
        t.pc.toNat = s.pc.toNat + 4 ∨ t.pc.toNat = s.pc.toNat + 2
      | _ => t.pc.toNat = s.pc.toNat + 2)

/-! ### The invariant -/

/-- R37 (derived in the spec; the canonical form of memory is the model's own): every step keeps the
invariant, from every state that meets it. -/
def Obligations.StepKeepsInvariant : Prop :=
  ∀ s t : State, s.Inv → step s = .next t → t.Inv

/-- R37 at reset. PC_RESET is decision D3 (log 6). -/
def Obligations.ResetMeetsInvariant : Prop :=
  State.reset.Inv

/-- R37 over histories (R189): Construct establishes the invariant when PC_RESET is at most 0x10FE, every
move of the host keeps it, and so it holds after any sequence of moves; the parameters never change. -/
def Obligations.HistoriesKeepInvariant : Prop :=
  (∀ (m : HostMove) (s t : State), s.Inv → performMove m s = .next t → t.Inv) ∧
  (∀ (cfg : Config) (image : List Byte) (moves : List HostMove) (s t : State),
    cfg.pcReset.toNat ≤ 0x10FE → construct cfg image = .next s → performMoves moves s = .next t →
    t.Inv ∧ t.cfg = cfg)

/-! ### Memory -/

/-- R55, R59: a read gives the value most recently written, a write changes exactly the one byte; and
the list form is canonical, so memories that read alike are equal (the model's own). -/
def Obligations.MemoryReadsLastWrite : Prop :=
  (∀ (s : State) (a : Nat) (b : Byte), s.MemOk → a ≤ 4095 →
    (s.poke a b).peek a = b ∧ (s.poke a b).MemOk) ∧
  (∀ (s : State) (a c : Nat) (b : Byte), c ≠ a → (s.poke a b).peek c = s.peek c) ∧
  (∀ s t : State, s.MemOk → t.MemOk → s.cfg = t.cfg →
    (∀ a, a ≤ 4095 → s.peek a = t.peek a) → s.mem = t.mem)

/-- R61, R180: a word stored at PC and PC + 1 is the word the next step executes. The placing is the
model's own operation (log 29). -/
def Obligations.PlacedWordIsExecuted : Prop :=
  ∀ (s : State) (i : Instr), s.MemOk → s.Fetchable →
    step (s.withFetchWord 16 (encode i).toNat) = exec i (s.withFetchWord 16 (encode i).toNat).tick ∧
    (s.withFetchWord 16 (encode i).toNat).pc = s.pc ∧
    MemKeptOutside s.pc.toNat 2 s (s.withFetchWord 16 (encode i).toNat) ∧
    OnlyChanges [.mem, .wait, .fault] s (s.withFetchWord 16 (encode i).toNat)

/-! ### Who may write what -/

/-- R36: MEM is written by StoreBCD and RegDump alone, I by LoadIndex, AddIndex and LoadFont, STACK and
SP by Call and Return, the timers by SetDelay and SetSound, WAIT by WaitForKey, FB by Draw and
ClearScreen, KEY by no instruction, and no instruction writes a parameter. -/
def Obligations.InstructionsWriteOnlyTheirParts : Prop :=
  ∀ (i : Instr) (s t : State), exec i s = .next t → OnlyChanges (partsWritten i) s t

/-- R21, R235: no instruction writes any other register; VF survives every instruction but the six and
those that name it as destination. -/
def Obligations.RegistersWrittenOnlyAsNamed : Prop :=
  ∀ (i : Instr) (s t : State) (r : Nibble), exec i s = .next t → ¬mayWriteReg r i →
    t.reg r = s.reg r

/-- R237, R36, R218: within a batch of steps KEY is constant, a pending wait stays, and the parameters
stay; only the host's events between batches change the keys. -/
def Obligations.BatchKeepsKeysAndWait : Prop :=
  ∀ (n : Nat) (s t : State), runCycle n s = .next t →
    t.keys = s.keys ∧ t.cfg = s.cfg ∧ (∀ r, s.wait = some r → t.wait = some r)

/-- R26: no instruction reads ST. Two machines that differ only in ST step to machines that differ at
most in ST. -/
def Obligations.SoundTimerIsNeverRead : Prop :=
  ∀ (s : State) (b : Byte), ∃ t u, step s = .next t ∧ step (s.setSound b) = .next u ∧
    u = t.setSound u.st

/-- R24 (decision D23, log 20; U15 of 93_implementation_defined.md): what stack entries at or above SP
hold cannot be observed: a step keeps two machines that differ only there alike. -/
def Obligations.DeadStackEntriesAreUnobservable : Prop :=
  ∀ s t : State, SameButDeadEntries s t →
    ∃ s' t', step s = .next s' ∧ step t = .next t' ∧ SameButDeadEntries s' t'

/-! ### Control flow -/

/-- R100 Jump(nnn): `pc <- nnn`, nothing else changes, no fault whatever the target. -/
def Obligations.JumpResult : Prop :=
  ∀ (nnn : Addr12) (s : State),
    ∃ t, exec (.jump nnn) s = .next t ∧ t.pc.toNat = nnn.toNat ∧ OnlyChanges [] s t

/-- R101 Call(nnn) with room on the stack: the address of the Call itself is pushed, `pc <- nnn`; only
STACK[SP] and SP change beside PC. The full stack is FaultTable's and StackFaults'. -/
def Obligations.CallResult : Prop :=
  ∀ (nnn : Addr12) (s : State) (k : Fin 16), k.val = s.sp.val →
    ∃ t, exec (.call nnn) s = .next t ∧ t.pc.toNat = nnn.toNat ∧
      t.sp.val = s.sp.val + 1 ∧ t.stack[k.val] = s.pc ∧
      (∀ j : Fin 16, j ≠ k → t.stack[j.val] = s.stack[j.val]) ∧ OnlyChanges [.stack] s t

/-- R202, R203: a Call on a full stack raises StackOverflow, a Return on an empty one StackUnderflow;
STACK, SP and PC are unchanged. That the fault is latched in a next state is R206 (decision D5, log 1);
that everything else is unchanged too is R207 (decision D7, log 24). -/
def Obligations.StackFaults : Prop :=
  (∀ (nnn : Addr12) (s : State), s.fault = none → s.sp.val = 16 →
    ∃ t, exec (.call nnn) s = .next t ∧ t.fault = some .stackOverflow ∧ t.pc = s.pc ∧
      OnlyChanges [.fault] s t) ∧
  (∀ s : State, s.fault = none → s.sp.val = 0 →
    ∃ t, exec .ret s = .next t ∧ t.fault = some .stackUnderflow ∧ t.pc = s.pc ∧
      OnlyChanges [.fault] s t)

/-- R102 Return on a stack that is not empty: `pc <- Pop() + 2`; the slot keeps its content, only SP
moves. The invariant bounds the popped address (the spec's derived note), so the sum is exact. -/
def Obligations.ReturnResult : Prop :=
  ∀ (s : State) (k : Fin 16), s.Inv → k.val + 1 = s.sp.val →
    ∃ t, exec .ret s = .next t ∧ t.pc.toNat = (s.stack[k.val]).toNat + 2 ∧
      t.sp.val = k.val ∧ t.stack = s.stack ∧ OnlyChanges [.stack] s t

/-- R103 JumpIndexed(nnn): `pc <- nnn + V[0]`, the whole sum, not reduced to 12 bits (decision D26, log
23); nothing else changes. -/
def Obligations.JumpIndexedResult : Prop :=
  ∀ (nnn : Addr12) (s : State), ∃ t, exec (.jumpIndexed nnn) s = .next t ∧
    t.pc.toNat = nnn.toNat + (s.reg 0).toNat ∧ OnlyChanges [] s t

/-! ### Conditional skips -/

/-- R110, R111: PC + 4 on a match, else PC + 2; nothing else changes, none can fault. -/
def Obligations.SkipImmediateResult : Prop :=
  ∀ (x : Nibble) (nn : Byte) (s : State), s.Fetchable →
    (∃ t, exec (.skipEqImm x nn) s = .next t ∧ OnlyChanges [] s t ∧
      t.pc.toNat = if s.reg x = nn then s.pc.toNat + 4 else s.pc.toNat + 2) ∧
    (∃ t, exec (.skipNeImm x nn) s = .next t ∧ OnlyChanges [] s t ∧
      t.pc.toNat = if s.reg x ≠ nn then s.pc.toNat + 4 else s.pc.toNat + 2)

/-- R112, R113: PC + 4 when the two registers are equal (SkipEqReg) or differ (SkipNeReg), else PC + 2;
nothing else changes, none can fault; x = y included. -/
def Obligations.SkipRegisterResult : Prop :=
  ∀ (x y : Nibble) (s : State), s.Fetchable →
    (∃ t, exec (.skipEqReg x y) s = .next t ∧ OnlyChanges [] s t ∧
      t.pc.toNat = if s.reg x = s.reg y then s.pc.toNat + 4 else s.pc.toNat + 2) ∧
    (∃ t, exec (.skipNeReg x y) s = .next t ∧ OnlyChanges [] s t ∧
      t.pc.toNat = if s.reg x ≠ s.reg y then s.pc.toNat + 4 else s.pc.toNat + 2)

/-! ### Arithmetic, logic, shifts -/

/-- R121 Add(x, y): Vx = (a + b) mod 256, VF = 1 when a + b > 255, else 0; for x or y = 0xF by decision
D9 (log 9). -/
def Obligations.AddResult : Prop :=
  ∀ (x y : Nibble) (s : State), s.Fetchable →
    FlaggedResult (.add x y) x s (((s.reg x).toNat + (s.reg y).toNat) % 256)
      (if (s.reg x).toNat + (s.reg y).toNat > 255 then 1 else 0)

/-- R122 AddImm(x, nn): Vx = (Vx + nn) mod 256, no flag. -/
def Obligations.AddImmediateResult : Prop :=
  ∀ (x : Nibble) (nn : Byte) (s : State), s.Fetchable →
    PlainResult (.addImm x nn) x s (((s.reg x).toNat + nn.toNat) % 256)

/-- R123, R124 Sub and SubRev: the difference modulo 256, VF = 1 when strictly greater, 0 when equal;
for x or y = 0xF by decision D9 (log 9). -/
def Obligations.SubtractResults : Prop :=
  ∀ (x y : Nibble) (s : State), s.Fetchable →
    FlaggedResult (.sub x y) x s (((s.reg x).toNat + 256 - (s.reg y).toNat) % 256)
      (if (s.reg x).toNat > (s.reg y).toNat then 1 else 0) ∧
    FlaggedResult (.subRev x y) x s (((s.reg y).toNat + 256 - (s.reg x).toNat) % 256)
      (if (s.reg y).toNat > (s.reg x).toNat then 1 else 0)

/-- R125, R126, R127 Or, And, Xor: the destination register is updated bitwise, no flag. -/
def Obligations.LogicResults : Prop :=
  ∀ (x y : Nibble) (s : State), s.Fetchable →
    PlainResult (.or x y) x s ((s.reg x).toNat ||| (s.reg y).toNat) ∧
    PlainResult (.and x y) x s ((s.reg x).toNat &&& (s.reg y).toNat) ∧
    PlainResult (.xor x y) x s ((s.reg x).toNat ^^^ (s.reg y).toNat)

/-- R128 ShiftRight(x, y): Vx halved in place, y ignored, VF = the bit shifted out; decisions D9, D10
(logs 9, 10). -/
def Obligations.ShiftRightResult : Prop :=
  ∀ (x y : Nibble) (s : State), s.Fetchable →
    FlaggedResult (.shiftRight x y) x s ((s.reg x).toNat / 2) ((s.reg x).toNat % 2)

/-- R129 ShiftLeft(x, y): Vx doubled modulo 256 in place, y ignored, VF = Vx AND SHL_FLAG_MASK whatever
the mask; under the default mask 0x80 that is 128 or 0. Decisions D9, D10, D11 (logs 4, 9, 10). -/
def Obligations.ShiftLeftResult : Prop :=
  ∀ (x y : Nibble) (s : State), s.Fetchable →
    FlaggedResult (.shiftLeft x y) x s ((s.reg x).toNat * 2 % 256)
      ((s.reg x).toNat &&& s.cfg.shlFlagMask.toNat) ∧
    (s.cfg.shlFlagMask = 0x80 → FlaggedResult (.shiftLeft x y) x s ((s.reg x).toNat * 2 % 256)
      (if (s.reg x).toNat ≥ 128 then 128 else 0))

/-! ### Load, move, random -/

/-- R140 LoadImm and R141 Move: the destination takes the immediate or the other register; no flag. -/
def Obligations.LoadAndMoveResults : Prop :=
  ∀ (x y : Nibble) (nn : Byte) (s : State), s.Fetchable →
    PlainResult (.loadImm x nn) x s nn.toNat ∧ PlainResult (.move x y) x s (s.reg y).toNat

/-- R142 LoadRand(x, nn): exactly one byte is drawn, also when nn = 0, and Vx is that byte AND nn, so no
bit outside nn is set; the byte is the next one supplied from outside, any byte, or where none is
supplied a free value (decision D28, log 7), whatever it is. -/
def Obligations.LoadRandResult : Prop :=
  ∀ (x : Nibble) (nn : Byte) (s : State), s.Fetchable →
    ∃ t, exec (.loadRand x nn) s = .next t ∧
      (∀ (r : Byte) (rest : List Byte), s.random = r :: rest →
        t.reg x = r &&& nn ∧ t.random = rest) ∧
      (s.random = [] → t.reg x = Config.randomByte s.draws &&& nn ∧ t.random = []) ∧
      t.reg x &&& ~~~nn = 0 ∧ t.draws = s.draws + 1 ∧ RegsKeptExcept [x] s t ∧
      OnlyChanges [.regs, .draws, .random] s t ∧ t.pc.toNat = s.pc.toNat + 2

/-- R33, R142 (decision D28, log 7): the random bytes are an input, any sequence of them. A step draws
the next supplied byte exactly when it executes LoadRand; a batch draws them in order, each once; a
step given its byte as an argument draws that byte, and depends on it only if it executes LoadRand;
supplying bytes changes nothing but the input. -/
def Obligations.InjectedBytesAreDrawnInOrder : Prop :=
  (∀ (s : State) (x : Nibble) (nn r : Byte), s.Executes (.loadRand x nn) →
    (∀ rest, s.random = r :: rest → ∃ t, step s = .next t ∧ t.reg x = r &&& nn ∧ t.random = rest) ∧
    ∃ t, stepWith r s = .next t ∧ t.reg x = r &&& nn ∧ t.random = s.random) ∧
  (∀ (s : State) (r : Byte), (∀ x nn, ¬s.Executes (.loadRand x nn)) →
    stepWith r s = step s ∧ ∃ t, step s = .next t ∧ t.random = s.random ∧ t.draws = s.draws) ∧
  (∀ (n : Nat) (s t : State), runCycle n s = .next t →
    s.draws ≤ t.draws ∧ t.draws ≤ s.draws + n ∧ t.random = s.random.drop (t.draws - s.draws)) ∧
  (∀ (bytes : List Byte) (s : State), ∃ t, supplyRandom bytes s = .next t ∧
    t.random = s.random ++ bytes ∧ t.pc = s.pc ∧ OnlyChanges [.random] s t)

/-! ### Index register and memory -/

/-- R150 LoadIndex(nnn): I becomes the address; V0 is not added; nothing else changes. -/
def Obligations.LoadIndexResult : Prop :=
  ∀ (nnn : Addr12) (s : State), s.Fetchable → ∃ t, exec (.loadIndex nnn) s = .next t ∧ t.index.toNat = nnn.toNat ∧
      OnlyChanges [.index] s t ∧ t.pc.toNat = s.pc.toNat + 2

/-- R151 AddIndex(x): I + Vx when it fits 16 bits, past 0xFFF and 4095 without a fault and with no flag;
when it does not fit, IndexOverflow and nothing else changes (decision D15, log 12). -/
def Obligations.AddIndexResult : Prop :=
  ∀ (x : Nibble) (s : State), s.Fetchable →
    (s.index.toNat + (s.reg x).toNat ≤ 0xFFFF → ∃ t, exec (.addIndex x) s = .next t ∧
      t.index.toNat = s.index.toNat + (s.reg x).toNat ∧ OnlyChanges [.index] s t ∧
      t.pc.toNat = s.pc.toNat + 2) ∧
    (s.index.toNat + (s.reg x).toNat > 0xFFFF → s.fault = none →
      exec (.addIndex x) s = .next { s with fault := some .indexOverflow })

/-- R152 LoadFont(x): I = 5 times the whole register value (decision D16, log 13); nothing else changes. -/
def Obligations.LoadFontResult : Prop :=
  ∀ (x : Nibble) (s : State), s.Fetchable →
    ∃ t, exec (.loadFont x) s = .next t ∧ t.index.toNat = 5 * (s.reg x).toNat ∧
      OnlyChanges [.index] s t ∧ t.pc.toNat = s.pc.toNat + 2

/-- R153 StoreBCD(x) with its three bytes inside memory: hundreds, tens and ones at I, I + 1, I + 2; no
other byte, no register and not I changes. -/
def Obligations.StoreBcdResult : Prop :=
  ∀ (x : Nibble) (s : State), s.MemOk → s.Fetchable → s.index.toNat + 2 ≤ 4095 →
    ∃ t, exec (.storeBCD x) s = .next t ∧
      (t.peek s.index.toNat).toNat = (s.reg x).toNat / 100 ∧
      (t.peek (s.index.toNat + 1)).toNat = (s.reg x).toNat / 10 % 10 ∧
      (t.peek (s.index.toNat + 2)).toNat = (s.reg x).toNat % 10 ∧
      MemKeptOutside s.index.toNat 3 s t ∧ OnlyChanges [.mem] s t ∧ t.pc.toNat = s.pc.toNat + 2

/-- R154 RegDump(x) with I + x inside memory: V0 to Vx inclusive at I to I + x; no other byte, no
register and not I changes. The spec marks "I unchanged" derived from the source's round trip. -/
def Obligations.RegDumpResult : Prop :=
  ∀ (x : Nibble) (s : State), s.MemOk → s.Fetchable → s.index.toNat + x.toNat ≤ 4095 →
    ∃ t, exec (.regDump x) s = .next t ∧
      (∀ r : Nibble, r.toNat ≤ x.toNat → t.peek (s.index.toNat + r.toNat) = s.reg r) ∧
      MemKeptOutside s.index.toNat (x.toNat + 1) s t ∧ OnlyChanges [.mem] s t ∧
      t.pc.toNat = s.pc.toNat + 2

/-- R155 RegLoad(x) with I + x inside memory: V0 to Vx inclusive from I to I + x; registers above x, I
and memory unchanged. -/
def Obligations.RegLoadResult : Prop :=
  ∀ (x : Nibble) (s : State), s.Fetchable → s.index.toNat + x.toNat ≤ 4095 →
    ∃ t, exec (.regLoad x) s = .next t ∧
      (∀ r : Nibble, r.toNat ≤ x.toNat → t.reg r = s.peek (s.index.toNat + r.toNat)) ∧
      (∀ r : Nibble, x.toNat < r.toNat → t.reg r = s.reg r) ∧ OnlyChanges [.regs] s t ∧
      t.pc.toNat = s.pc.toNat + 2

/-- R154, R155, the source's round trip: RegDump(x) then RegLoad(x), the registers overwritten with
anything between, restores V0 to Vx and leaves the others as they were left. -/
def Obligations.DumpLoadRoundTrip : Prop :=
  ∀ (x : Nibble) (s t : State) (v : Vector Byte 16), s.MemOk → s.index.toNat + x.toNat ≤ 4095 →
    exec (.regDump x) s = .next t →
    ∃ u, exec (.regLoad x) { t with v := v } = .next u ∧
      (∀ r : Nibble, r.toNat ≤ x.toNat → u.reg r = s.reg r) ∧
      (∀ r : Nibble, x.toNat < r.toNat → u.reg r = v[r.toNat]'r.isLt)

/-! ### Drawing -/

/-- R160 Draw(x, y, n) with its bytes inside memory, n = 0 included: every covered pixel is toggled, every
other kept; VF = 1 exactly when a covered pixel was on; registers but VF, I and memory unchanged.
Decisions D9, D12, D13, D14 (logs 9, 11). -/
def Obligations.DrawResult : Prop :=
  ∀ (x y n : Nibble) (s : State), s.Fetchable → (n = 0 ∨ s.index.toNat + n.toNat - 1 ≤ 4095) →
    ∃ t, exec (.draw x y n) s = .next t ∧
      (∀ px py : Nat, px < 64 → py < 32 →
        (SpriteCovers x y n s px py → fbPixel t.fb px py = !fbPixel s.fb px py) ∧
        (¬SpriteCovers x y n s px py → fbPixel t.fb px py = fbPixel s.fb px py)) ∧
      ((∃ px py : Nat, px < 64 ∧ py < 32 ∧ SpriteCovers x y n s px py ∧
        fbPixel s.fb px py = true) → t.reg 0xF = 1) ∧
      ((¬∃ px py : Nat, px < 64 ∧ py < 32 ∧ SpriteCovers x y n s px py ∧
        fbPixel s.fb px py = true) → t.reg 0xF = 0) ∧
      RegsKeptExcept [0xF] s t ∧ OnlyChanges [.regs, .fb] s t ∧ t.pc.toNat = s.pc.toNat + 2

/-- R160 (a): drawing the same sprite twice at the same place (neither coordinate taken from VF) restores
the framebuffer; the second draw reports VF = 1 exactly when the sprite covers a pixel that was off
at first (log 33 says how the rule's sentence is read). -/
def Obligations.DrawTwiceRestores : Prop :=
  ∀ (x y n : Nibble) (s t u : State), x ≠ 0xF → y ≠ 0xF →
    (n = 0 ∨ s.index.toNat + n.toNat - 1 ≤ 4095) →
    exec (.draw x y n) s = .next t → exec (.draw x y n) t = .next u →
    u.fb = s.fb ∧
    (u.reg 0xF = 1 ↔ ∃ px py : Nat, px < 64 ∧ py < 32 ∧ SpriteCovers x y n s px py ∧
      fbPixel s.fb px py = false)

/-- R161 ClearScreen: every pixel off; VF is not written, nothing else changes. -/
def Obligations.ClearScreenResult : Prop :=
  ∀ s : State, s.Fetchable → ∃ t, exec .clearScreen s = .next t ∧
    (∀ px py : Nat, px < 64 → py < 32 → fbPixel t.fb px py = false) ∧
    OnlyChanges [.fb] s t ∧ t.pc.toNat = s.pc.toNat + 2

/-! ### Keyboard and timers -/

/-- R170, R171 with a key number of at most 15: PC + 4 when the key is down (SkipKeyPressed) or up
(SkipKeyNotPressed), else PC + 2; with one above 15, OutOfRange(key, k) and nothing else changes
(decision D17, log 14). -/
def Obligations.KeySkipResults : Prop :=
  (∀ (x : Nibble) (s : State) (k : Fin 16), s.Fetchable → (s.reg x).toNat = k.val →
    (∃ t, exec (.skipKeyPressed x) s = .next t ∧ OnlyChanges [] s t ∧
      t.pc.toNat = if s.keys[k.val] = true then s.pc.toNat + 4 else s.pc.toNat + 2) ∧
    (∃ t, exec (.skipKeyNotPressed x) s = .next t ∧ OnlyChanges [] s t ∧
      t.pc.toNat = if s.keys[k.val] = true then s.pc.toNat + 2 else s.pc.toNat + 4)) ∧
  (∀ (x : Nibble) (s : State), s.fault = none → 15 < (s.reg x).toNat →
    exec (.skipKeyPressed x) s =
      .next { s with fault := some (.outOfRange .key (s.reg x).toNat) } ∧
    exec (.skipKeyNotPressed x) s =
      .next { s with fault := some (.outOfRange .key (s.reg x).toNat) })

/-- R172 WaitForKey(x): WAIT <- some x and PC + 2 (decision D18, log 15), Vx not written; then KeyPress
delivers the key number to Vx and ends the wait, and a KeyRelease does not (decision D19, log 16). -/
def Obligations.WaitForKeyResult : Prop :=
  ∀ (x : Nibble) (s : State), s.Fetchable → ∃ t, exec (.waitForKey x) s = .next t ∧
    t.wait = some x ∧ OnlyChanges [.wait] s t ∧ t.pc.toNat = s.pc.toNat + 2 ∧
    (∀ k : Nat, k ≤ 15 → ∃ u, keyPress k t = .next u ∧ (u.reg x).toNat = k ∧ u.wait = none ∧
      u.pc = t.pc) ∧
    (∀ k : Nat, k ≤ 15 → ∃ u, keyRelease k t = .next u ∧ u.wait = some x ∧ RegsKeptExcept [] t u)

/-- R173 LoadDelay, R174 SetDelay, R175 SetSound: a register takes DT, or DT or ST takes a register;
nothing else changes. -/
def Obligations.TimerInstructionResults : Prop :=
  ∀ (x : Nibble) (s : State), s.Fetchable →
    PlainResult (.loadDelay x) x s s.dt.toNat ∧
    (∃ t, exec (.setDelay x) s = .next t ∧ t.dt = s.reg x ∧ OnlyChanges [.dt] s t ∧
      t.pc.toNat = s.pc.toNat + 2) ∧
    (∃ t, exec (.setSound x) s = .next t ∧ t.st = s.reg x ∧ OnlyChanges [.st] s t ∧
      t.pc.toNat = s.pc.toNat + 2)

/-! ### The host's operations -/

/-- R187, R188 (decision D19, log 16): KeyPress(k) sets KEY[k] and, in a waiting machine, writes k to the
pending register and ends the wait; KeyRelease(k) clears KEY[k] and does nothing else, also during a
wait; neither touches PC, a timer or another key; a number above 15 is refused. -/
def Obligations.KeyEvents : Prop :=
  (∀ (k : Fin 16) (s : State), s.wait = none → ∃ t, keyPress k.val s = .next t ∧
    t.keys[k.val] = true ∧ (∀ j : Fin 16, j ≠ k → t.keys[j.val] = s.keys[j.val]) ∧
    t.pc = s.pc ∧ OnlyChanges [.keys] s t) ∧
  (∀ (k : Fin 16) (r : Nibble) (s : State), s.wait = some r → ∃ t, keyPress k.val s = .next t ∧
    t.keys[k.val] = true ∧ (∀ j : Fin 16, j ≠ k → t.keys[j.val] = s.keys[j.val]) ∧
    (t.reg r).toNat = k.val ∧ RegsKeptExcept [r] s t ∧ t.wait = none ∧
    t.pc = s.pc ∧ OnlyChanges [.keys, .regs, .wait] s t) ∧
  (∀ (k : Fin 16) (s : State), ∃ t, keyRelease k.val s = .next t ∧
    t.keys[k.val] = false ∧ (∀ j : Fin 16, j ≠ k → t.keys[j.val] = s.keys[j.val]) ∧
    t.pc = s.pc ∧ OnlyChanges [.keys] s t) ∧
  (∀ (k : Nat) (s : State), 15 < k →
    keyPress k s = .refused (.keyOutOfRange k) ∧ keyRelease k s = .refused (.keyOutOfRange k))

/-- R230, R231 (decisions D3, D4, D24; logs 3, 6, 21): Construct of an image of at most 3584 bytes: FONT at
0 to 79, the image from 0x200 in order, zero elsewhere, PC = PC_RESET, all else as the initial
state; a longer image is refused. -/
def Obligations.ConstructLoadsImage : Prop :=
  (∀ (cfg : Config) (image : List Byte), image.length ≤ 3584 →
    ∃ t, construct cfg image = .next t ∧ t.MemOk ∧ t.cfg = cfg ∧ t.pc = cfg.pcReset ∧
      (∀ a (h : a < 80), t.peek a = cfg.font[a]) ∧
      (∀ j (h : j < image.length), t.peek (0x200 + j) = image[j]) ∧
      (∀ a, 80 ≤ a → ¬(0x200 ≤ a ∧ a < 0x200 + image.length) → t.peek a = 0) ∧
      OnlyChanges [.mem] (State.initial cfg) t) ∧
  (∀ (cfg : Config) (image : List Byte), 3584 < image.length →
    construct cfg image = .refused (.imageTooLong image.length))

/-- R34: every register, I, the stack and both timers zero, every key up, no wait, every pixel off, no
fault, memory FONT and then zero; PC = 0x200 by decision D3 (log 6); FAULT by decision D5 (log 1). -/
def Obligations.ResetState : Prop :=
  (∀ r : Nibble, State.reset.reg r = 0) ∧ State.reset.index = 0 ∧ State.reset.pc = 0x200 ∧
  State.reset.sp = 0 ∧ (∀ k : Fin 16, State.reset.stack[k.val] = 0) ∧
  State.reset.dt = 0 ∧ State.reset.st = 0 ∧ (∀ k : Nibble, State.reset.key k = false) ∧
  State.reset.wait = none ∧ State.reset.fault = none ∧
  (∀ px py : Nat, fbPixel State.reset.fb px py = false) ∧
  (∀ a (h : a < 80), State.reset.peek a = State.reset.cfg.font[a]) ∧
  (∀ a, 80 ≤ a → State.reset.peek a = 0)

/-- R185 (decision D29, log 32): RunCycle(N) is N Steps in sequence: it is the run of N steps of the
machine, a batch of m + n is a batch of m and then one of n, and a batch of 0 does nothing. -/
def Obligations.BatchIsItsSteps : Prop :=
  (∀ (n : Nat) (s : State), runCycle n s = Host.Core.run Sys2Proof.core n s) ∧
  (∀ (m n : Nat) (s t : State), runCycle m s = .next t → runCycle (m + n) s = runCycle n t) ∧
  (∀ s : State, runCycle 0 s = .next s)
end

