-- ==== Sys2Proof/Laws/Memory.lean ====
section
/-!
SUPPORT. The laws of the memory list: what a read gives after a write, and that every memory operation
keeps the canonical form (spec 20_memory.md R55, R59).
-/

namespace Sys2Proof.Machine

variable (cfg : Config)

/-- The canonical form from `lo` on, taken apart at the head. -/
theorem memWfFrom_cons (lo : Nat) (c : Host.Cell) (m : Memory) :
    memWfFrom cfg lo (c :: m) = true ↔
      lo ≤ c.1 ∧ c.1 < 4096 ∧ c.2 ≠ unlisted cfg c.1 ∧ memWfFrom cfg (c.1 + 1) m = true := by
  simp [memWfFrom, memSize, and_assoc]

/-- A canonical list from a higher address is one from a lower address. -/
theorem memWfFrom_mono {lo lo' : Nat} (h : lo ≤ lo') :
    ∀ {m : Memory}, memWfFrom cfg lo' m = true → memWfFrom cfg lo m = true
  | [], _ => rfl
  | c :: m, hm => by
    rw [memWfFrom_cons] at hm ⊢
    exact ⟨h.trans hm.1, hm.2⟩

/-- Below the first address of a canonical list every byte is unlisted. -/
theorem memRead_below {a : Nat} :
    ∀ {lo : Nat} {m : Memory}, memWfFrom cfg lo m = true → a < lo →
      memRead cfg m a = unlisted cfg a
  | _, [], _, _ => rfl
  | lo, c :: m, hm, ha => by
    rw [memWfFrom_cons] at hm
    have hc : c.1 ≠ a := by omega
    simp only [memRead, hc, if_false]
    exact memRead_below hm.2.2.2 (by omega)

/-- An insertion changes no other address, in any list. -/
theorem memRead_memInsert_ne {a a' : Nat} (b : Byte) (h : a' ≠ a) :
    ∀ m : Memory, memRead cfg (memInsert cfg a b m) a' = memRead cfg m a'
  | [] => by
    simp only [memInsert]
    split <;> simp [memRead, h.symm]
  | c :: m => by
    have ih := memRead_memInsert_ne b h m
    simp only [memInsert]
    split
    · split <;> simp [memRead, h.symm]
    · split
      · rename_i hc
        split <;> simp [memRead, h.symm, ← hc]
      · simp [memRead, ih]

/-- In a canonical list the inserted byte is what is read. -/
theorem memRead_memInsert_same {a : Nat} (b : Byte) :
    ∀ {lo : Nat} {m : Memory}, memWfFrom cfg lo m = true →
      memRead cfg (memInsert cfg a b m) a = b
  | _, [], _ => by
    simp only [memInsert]
    split <;> simp_all [memRead]
  | lo, c :: m, hm => by
    have hw := hm
    rw [memWfFrom_cons] at hw
    have ih := memRead_memInsert_same (a := a) b hw.2.2.2
    simp only [memInsert]
    split
    · rename_i hlt
      split
      · rename_i hb
        have hne : c.1 ≠ a := by omega
        simp only [memRead, hne, if_false]
        rw [memRead_below cfg hw.2.2.2 (by omega), hb]
      · simp [memRead]
    · split
      · rename_i heq
        split
        · rename_i hb
          rw [memRead_below cfg hw.2.2.2 (by omega), hb]
        · simp [memRead]
      · rename_i hne
        have hne' : c.1 ≠ a := fun e => hne e.symm
        simp only [memRead, hne', if_false]
        exact ih

/-- An insertion inside memory keeps the canonical form. -/
theorem memInsert_wf {a : Nat} (b : Byte) (ha : a < 4096) :
    ∀ {lo : Nat} {m : Memory}, lo ≤ a → memWfFrom cfg lo m = true →
      memWfFrom cfg lo (memInsert cfg a b m) = true
  | lo, [], hlo, _ => by
    simp only [memInsert]
    split
    · rfl
    · rename_i hb
      rw [memWfFrom_cons]
      exact ⟨hlo, ha, hb, rfl⟩
  | lo, c :: m, hlo, hm => by
    have hw := hm
    rw [memWfFrom_cons] at hw
    obtain ⟨h1, h2, h3, h4⟩ := hw
    simp only [memInsert]
    split
    · rename_i hlt
      split
      · exact hm
      · rename_i hb
        rw [memWfFrom_cons]
        refine ⟨hlo, ha, hb, ?_⟩
        rw [memWfFrom_cons]
        exact ⟨hlt, h2, h3, h4⟩
    · split
      · rename_i heq
        split
        · exact memWfFrom_mono cfg (by omega) h4
        · rename_i hb
          rw [memWfFrom_cons]
          exact ⟨hlo, ha, hb, heq ▸ h4⟩
      · rw [memWfFrom_cons]
        exact ⟨h1, h2, h3, memInsert_wf b ha (by omega) h4⟩

/-- Every write keeps the canonical form. -/
theorem memWrite_wf {m : Memory} (a : Nat) (b : Byte) (hm : memWf cfg m = true) :
    memWf cfg (memWrite cfg m a b) = true := by
  unfold memWrite
  split
  · rename_i ha
    exact memInsert_wf cfg b ha (Nat.zero_le _) hm
  · exact hm

/-- A write leaves every other address alone. -/
theorem memRead_memWrite_ne {a a' : Nat} (m : Memory) (b : Byte) (h : a' ≠ a) :
    memRead cfg (memWrite cfg m a b) a' = memRead cfg m a' := by
  unfold memWrite
  split
  · exact memRead_memInsert_ne cfg b h m
  · rfl

/-- A write inside memory is what the next read gives. -/
theorem memRead_memWrite_same {a : Nat} {m : Memory} (b : Byte) (hm : memWf cfg m = true)
    (ha : a < 4096) : memRead cfg (memWrite cfg m a b) a = b := by
  unfold memWrite
  rw [if_pos ha]
  exact memRead_memInsert_same cfg b hm

/-- The memory after reset is in canonical form. -/
theorem memWf_reset : memWf State.reset.cfg State.reset.mem = true := rfl

/-- A byte read after a write, in a state: another address is unchanged. -/
theorem poke_peek_ne (s : State) {a a' : Nat} (b : Byte) (h : a' ≠ a) :
    (s.poke a b).peek a' = s.peek a' :=
  memRead_memWrite_ne s.cfg s.mem b h

/-- A byte read after a write, in a state: the same address gives the byte. -/
theorem poke_peek_same (s : State) {a : Nat} (b : Byte) (hm : memWf s.cfg s.mem = true)
    (ha : a < 4096) : (s.poke a b).peek a = b :=
  memRead_memWrite_same s.cfg b hm ha

/-- A write to memory keeps the canonical form, in a state. -/
theorem poke_memWf (s : State) (a : Nat) (b : Byte) (hm : memWf s.cfg s.mem = true) :
    memWf (s.poke a b).cfg (s.poke a b).mem = true :=
  memWrite_wf s.cfg a b hm

end Sys2Proof.Machine
end

