-- ==== Sys2Proof/Laws/State.lean ====
section
/-!
SUPPORT. One lemma per field per update of the state, true by rfl, and the reads of a register, a key
and a byte of memory through each update, so that no proof unfolds a record update.
-/

namespace Sys2Proof.Machine

variable (s : State)

/-! ### `setReg` -/

@[simp] theorem setReg_mem (i : Nibble) (b : Byte) : (s.setReg i b).mem = s.mem := rfl
@[simp] theorem setReg_v (i : Nibble) (b : Byte) : (s.setReg i b).v = s.v.set i.toNat b i.isLt := rfl
@[simp] theorem setReg_index (i : Nibble) (b : Byte) : (s.setReg i b).index = s.index := rfl
@[simp] theorem setReg_pc (i : Nibble) (b : Byte) : (s.setReg i b).pc = s.pc := rfl
@[simp] theorem setReg_stack (i : Nibble) (b : Byte) : (s.setReg i b).stack = s.stack := rfl
@[simp] theorem setReg_sp (i : Nibble) (b : Byte) : (s.setReg i b).sp = s.sp := rfl
@[simp] theorem setReg_dt (i : Nibble) (b : Byte) : (s.setReg i b).dt = s.dt := rfl
@[simp] theorem setReg_st (i : Nibble) (b : Byte) : (s.setReg i b).st = s.st := rfl
@[simp] theorem setReg_keys (i : Nibble) (b : Byte) : (s.setReg i b).keys = s.keys := rfl
@[simp] theorem setReg_wait (i : Nibble) (b : Byte) : (s.setReg i b).wait = s.wait := rfl
@[simp] theorem setReg_fb (i : Nibble) (b : Byte) : (s.setReg i b).fb = s.fb := rfl
@[simp] theorem setReg_fault (i : Nibble) (b : Byte) : (s.setReg i b).fault = s.fault := rfl
@[simp] theorem setReg_cfg (i : Nibble) (b : Byte) : (s.setReg i b).cfg = s.cfg := rfl
@[simp] theorem setReg_draws (i : Nibble) (b : Byte) : (s.setReg i b).draws = s.draws := rfl
@[simp] theorem setReg_random (i : Nibble) (b : Byte) : (s.setReg i b).random = s.random := rfl
@[simp] theorem setReg_key (i : Nibble) (b : Byte) (j : Nibble) : (s.setReg i b).key j = s.key j := rfl
@[simp] theorem setReg_peek (i : Nibble) (b : Byte) (a : Nat) : (s.setReg i b).peek a = s.peek a := rfl

/-! ### `setIndex` -/

@[simp] theorem setIndex_mem (a : Word) : (s.setIndex a).mem = s.mem := rfl
@[simp] theorem setIndex_v (a : Word) : (s.setIndex a).v = s.v := rfl
@[simp] theorem setIndex_index (a : Word) : (s.setIndex a).index = a := rfl
@[simp] theorem setIndex_pc (a : Word) : (s.setIndex a).pc = s.pc := rfl
@[simp] theorem setIndex_stack (a : Word) : (s.setIndex a).stack = s.stack := rfl
@[simp] theorem setIndex_sp (a : Word) : (s.setIndex a).sp = s.sp := rfl
@[simp] theorem setIndex_dt (a : Word) : (s.setIndex a).dt = s.dt := rfl
@[simp] theorem setIndex_st (a : Word) : (s.setIndex a).st = s.st := rfl
@[simp] theorem setIndex_keys (a : Word) : (s.setIndex a).keys = s.keys := rfl
@[simp] theorem setIndex_wait (a : Word) : (s.setIndex a).wait = s.wait := rfl
@[simp] theorem setIndex_fb (a : Word) : (s.setIndex a).fb = s.fb := rfl
@[simp] theorem setIndex_fault (a : Word) : (s.setIndex a).fault = s.fault := rfl
@[simp] theorem setIndex_cfg (a : Word) : (s.setIndex a).cfg = s.cfg := rfl
@[simp] theorem setIndex_draws (a : Word) : (s.setIndex a).draws = s.draws := rfl
@[simp] theorem setIndex_random (a : Word) : (s.setIndex a).random = s.random := rfl
@[simp] theorem setIndex_reg (a : Word) (r : Nibble) : (s.setIndex a).reg r = s.reg r := rfl
@[simp] theorem setIndex_key (a : Word) (j : Nibble) : (s.setIndex a).key j = s.key j := rfl
@[simp] theorem setIndex_peek (a : Word) (a' : Nat) : (s.setIndex a).peek a' = s.peek a' := rfl

/-! ### `goto` -/

@[simp] theorem goto_mem (a : Word) : (s.goto a).mem = s.mem := rfl
@[simp] theorem goto_v (a : Word) : (s.goto a).v = s.v := rfl
@[simp] theorem goto_index (a : Word) : (s.goto a).index = s.index := rfl
@[simp] theorem goto_pc (a : Word) : (s.goto a).pc = a := rfl
@[simp] theorem goto_stack (a : Word) : (s.goto a).stack = s.stack := rfl
@[simp] theorem goto_sp (a : Word) : (s.goto a).sp = s.sp := rfl
@[simp] theorem goto_dt (a : Word) : (s.goto a).dt = s.dt := rfl
@[simp] theorem goto_st (a : Word) : (s.goto a).st = s.st := rfl
@[simp] theorem goto_keys (a : Word) : (s.goto a).keys = s.keys := rfl
@[simp] theorem goto_wait (a : Word) : (s.goto a).wait = s.wait := rfl
@[simp] theorem goto_fb (a : Word) : (s.goto a).fb = s.fb := rfl
@[simp] theorem goto_fault (a : Word) : (s.goto a).fault = s.fault := rfl
@[simp] theorem goto_cfg (a : Word) : (s.goto a).cfg = s.cfg := rfl
@[simp] theorem goto_draws (a : Word) : (s.goto a).draws = s.draws := rfl
@[simp] theorem goto_random (a : Word) : (s.goto a).random = s.random := rfl
@[simp] theorem goto_reg (a : Word) (r : Nibble) : (s.goto a).reg r = s.reg r := rfl
@[simp] theorem goto_key (a : Word) (j : Nibble) : (s.goto a).key j = s.key j := rfl
@[simp] theorem goto_peek (a : Word) (a' : Nat) : (s.goto a).peek a' = s.peek a' := rfl

/-! ### `advance` -/

@[simp] theorem advance_mem : (s.advance).mem = s.mem := rfl
@[simp] theorem advance_v : (s.advance).v = s.v := rfl
@[simp] theorem advance_index : (s.advance).index = s.index := rfl
@[simp] theorem advance_pc : (s.advance).pc = s.pc + 2 := rfl
@[simp] theorem advance_stack : (s.advance).stack = s.stack := rfl
@[simp] theorem advance_sp : (s.advance).sp = s.sp := rfl
@[simp] theorem advance_dt : (s.advance).dt = s.dt := rfl
@[simp] theorem advance_st : (s.advance).st = s.st := rfl
@[simp] theorem advance_keys : (s.advance).keys = s.keys := rfl
@[simp] theorem advance_wait : (s.advance).wait = s.wait := rfl
@[simp] theorem advance_fb : (s.advance).fb = s.fb := rfl
@[simp] theorem advance_fault : (s.advance).fault = s.fault := rfl
@[simp] theorem advance_cfg : (s.advance).cfg = s.cfg := rfl
@[simp] theorem advance_draws : (s.advance).draws = s.draws := rfl
@[simp] theorem advance_random : (s.advance).random = s.random := rfl
@[simp] theorem advance_reg (r : Nibble) : (s.advance).reg r = s.reg r := rfl
@[simp] theorem advance_key (j : Nibble) : (s.advance).key j = s.key j := rfl
@[simp] theorem advance_peek (a : Nat) : (s.advance).peek a = s.peek a := rfl

/-! ### `setDelay` -/

@[simp] theorem setDelay_mem (b : Byte) : (s.setDelay b).mem = s.mem := rfl
@[simp] theorem setDelay_v (b : Byte) : (s.setDelay b).v = s.v := rfl
@[simp] theorem setDelay_index (b : Byte) : (s.setDelay b).index = s.index := rfl
@[simp] theorem setDelay_pc (b : Byte) : (s.setDelay b).pc = s.pc := rfl
@[simp] theorem setDelay_stack (b : Byte) : (s.setDelay b).stack = s.stack := rfl
@[simp] theorem setDelay_sp (b : Byte) : (s.setDelay b).sp = s.sp := rfl
@[simp] theorem setDelay_dt (b : Byte) : (s.setDelay b).dt = b := rfl
@[simp] theorem setDelay_st (b : Byte) : (s.setDelay b).st = s.st := rfl
@[simp] theorem setDelay_keys (b : Byte) : (s.setDelay b).keys = s.keys := rfl
@[simp] theorem setDelay_wait (b : Byte) : (s.setDelay b).wait = s.wait := rfl
@[simp] theorem setDelay_fb (b : Byte) : (s.setDelay b).fb = s.fb := rfl
@[simp] theorem setDelay_fault (b : Byte) : (s.setDelay b).fault = s.fault := rfl
@[simp] theorem setDelay_cfg (b : Byte) : (s.setDelay b).cfg = s.cfg := rfl
@[simp] theorem setDelay_draws (b : Byte) : (s.setDelay b).draws = s.draws := rfl
@[simp] theorem setDelay_random (b : Byte) : (s.setDelay b).random = s.random := rfl
@[simp] theorem setDelay_reg (b : Byte) (r : Nibble) : (s.setDelay b).reg r = s.reg r := rfl
@[simp] theorem setDelay_key (b : Byte) (j : Nibble) : (s.setDelay b).key j = s.key j := rfl
@[simp] theorem setDelay_peek (b : Byte) (a : Nat) : (s.setDelay b).peek a = s.peek a := rfl

/-! ### `setSound` -/

@[simp] theorem setSound_mem (b : Byte) : (s.setSound b).mem = s.mem := rfl
@[simp] theorem setSound_v (b : Byte) : (s.setSound b).v = s.v := rfl
@[simp] theorem setSound_index (b : Byte) : (s.setSound b).index = s.index := rfl
@[simp] theorem setSound_pc (b : Byte) : (s.setSound b).pc = s.pc := rfl
@[simp] theorem setSound_stack (b : Byte) : (s.setSound b).stack = s.stack := rfl
@[simp] theorem setSound_sp (b : Byte) : (s.setSound b).sp = s.sp := rfl
@[simp] theorem setSound_dt (b : Byte) : (s.setSound b).dt = s.dt := rfl
@[simp] theorem setSound_st (b : Byte) : (s.setSound b).st = b := rfl
@[simp] theorem setSound_keys (b : Byte) : (s.setSound b).keys = s.keys := rfl
@[simp] theorem setSound_wait (b : Byte) : (s.setSound b).wait = s.wait := rfl
@[simp] theorem setSound_fb (b : Byte) : (s.setSound b).fb = s.fb := rfl
@[simp] theorem setSound_fault (b : Byte) : (s.setSound b).fault = s.fault := rfl
@[simp] theorem setSound_cfg (b : Byte) : (s.setSound b).cfg = s.cfg := rfl
@[simp] theorem setSound_draws (b : Byte) : (s.setSound b).draws = s.draws := rfl
@[simp] theorem setSound_random (b : Byte) : (s.setSound b).random = s.random := rfl
@[simp] theorem setSound_reg (b : Byte) (r : Nibble) : (s.setSound b).reg r = s.reg r := rfl
@[simp] theorem setSound_key (b : Byte) (j : Nibble) : (s.setSound b).key j = s.key j := rfl
@[simp] theorem setSound_peek (b : Byte) (a : Nat) : (s.setSound b).peek a = s.peek a := rfl

/-! ### `setWait` -/

@[simp] theorem setWait_mem (w : Option Nibble) : (s.setWait w).mem = s.mem := rfl
@[simp] theorem setWait_v (w : Option Nibble) : (s.setWait w).v = s.v := rfl
@[simp] theorem setWait_index (w : Option Nibble) : (s.setWait w).index = s.index := rfl
@[simp] theorem setWait_pc (w : Option Nibble) : (s.setWait w).pc = s.pc := rfl
@[simp] theorem setWait_stack (w : Option Nibble) : (s.setWait w).stack = s.stack := rfl
@[simp] theorem setWait_sp (w : Option Nibble) : (s.setWait w).sp = s.sp := rfl
@[simp] theorem setWait_dt (w : Option Nibble) : (s.setWait w).dt = s.dt := rfl
@[simp] theorem setWait_st (w : Option Nibble) : (s.setWait w).st = s.st := rfl
@[simp] theorem setWait_keys (w : Option Nibble) : (s.setWait w).keys = s.keys := rfl
@[simp] theorem setWait_wait (w : Option Nibble) : (s.setWait w).wait = w := rfl
@[simp] theorem setWait_fb (w : Option Nibble) : (s.setWait w).fb = s.fb := rfl
@[simp] theorem setWait_fault (w : Option Nibble) : (s.setWait w).fault = s.fault := rfl
@[simp] theorem setWait_cfg (w : Option Nibble) : (s.setWait w).cfg = s.cfg := rfl
@[simp] theorem setWait_draws (w : Option Nibble) : (s.setWait w).draws = s.draws := rfl
@[simp] theorem setWait_random (w : Option Nibble) : (s.setWait w).random = s.random := rfl
@[simp] theorem setWait_reg (w : Option Nibble) (r : Nibble) : (s.setWait w).reg r = s.reg r := rfl
@[simp] theorem setWait_key (w : Option Nibble) (j : Nibble) : (s.setWait w).key j = s.key j := rfl
@[simp] theorem setWait_peek (w : Option Nibble) (a : Nat) : (s.setWait w).peek a = s.peek a := rfl

/-! ### `setKey` -/

@[simp] theorem setKey_mem (k : Nibble) (b : Bool) : (s.setKey k b).mem = s.mem := rfl
@[simp] theorem setKey_v (k : Nibble) (b : Bool) : (s.setKey k b).v = s.v := rfl
@[simp] theorem setKey_index (k : Nibble) (b : Bool) : (s.setKey k b).index = s.index := rfl
@[simp] theorem setKey_pc (k : Nibble) (b : Bool) : (s.setKey k b).pc = s.pc := rfl
@[simp] theorem setKey_stack (k : Nibble) (b : Bool) : (s.setKey k b).stack = s.stack := rfl
@[simp] theorem setKey_sp (k : Nibble) (b : Bool) : (s.setKey k b).sp = s.sp := rfl
@[simp] theorem setKey_dt (k : Nibble) (b : Bool) : (s.setKey k b).dt = s.dt := rfl
@[simp] theorem setKey_st (k : Nibble) (b : Bool) : (s.setKey k b).st = s.st := rfl
@[simp] theorem setKey_keys (k : Nibble) (b : Bool) : (s.setKey k b).keys = s.keys.set k.toNat b k.isLt := rfl
@[simp] theorem setKey_wait (k : Nibble) (b : Bool) : (s.setKey k b).wait = s.wait := rfl
@[simp] theorem setKey_fb (k : Nibble) (b : Bool) : (s.setKey k b).fb = s.fb := rfl
@[simp] theorem setKey_fault (k : Nibble) (b : Bool) : (s.setKey k b).fault = s.fault := rfl
@[simp] theorem setKey_cfg (k : Nibble) (b : Bool) : (s.setKey k b).cfg = s.cfg := rfl
@[simp] theorem setKey_draws (k : Nibble) (b : Bool) : (s.setKey k b).draws = s.draws := rfl
@[simp] theorem setKey_random (k : Nibble) (b : Bool) : (s.setKey k b).random = s.random := rfl
@[simp] theorem setKey_reg (k : Nibble) (b : Bool) (r : Nibble) : (s.setKey k b).reg r = s.reg r := rfl
@[simp] theorem setKey_peek (k : Nibble) (b : Bool) (a : Nat) : (s.setKey k b).peek a = s.peek a := rfl

/-! ### `setFb` -/

@[simp] theorem setFb_mem (fb : Framebuffer) : (s.setFb fb).mem = s.mem := rfl
@[simp] theorem setFb_v (fb : Framebuffer) : (s.setFb fb).v = s.v := rfl
@[simp] theorem setFb_index (fb : Framebuffer) : (s.setFb fb).index = s.index := rfl
@[simp] theorem setFb_pc (fb : Framebuffer) : (s.setFb fb).pc = s.pc := rfl
@[simp] theorem setFb_stack (fb : Framebuffer) : (s.setFb fb).stack = s.stack := rfl
@[simp] theorem setFb_sp (fb : Framebuffer) : (s.setFb fb).sp = s.sp := rfl
@[simp] theorem setFb_dt (fb : Framebuffer) : (s.setFb fb).dt = s.dt := rfl
@[simp] theorem setFb_st (fb : Framebuffer) : (s.setFb fb).st = s.st := rfl
@[simp] theorem setFb_keys (fb : Framebuffer) : (s.setFb fb).keys = s.keys := rfl
@[simp] theorem setFb_wait (fb : Framebuffer) : (s.setFb fb).wait = s.wait := rfl
@[simp] theorem setFb_fb (fb : Framebuffer) : (s.setFb fb).fb = fb := rfl
@[simp] theorem setFb_fault (fb : Framebuffer) : (s.setFb fb).fault = s.fault := rfl
@[simp] theorem setFb_cfg (fb : Framebuffer) : (s.setFb fb).cfg = s.cfg := rfl
@[simp] theorem setFb_draws (fb : Framebuffer) : (s.setFb fb).draws = s.draws := rfl
@[simp] theorem setFb_random (fb : Framebuffer) : (s.setFb fb).random = s.random := rfl
@[simp] theorem setFb_reg (fb : Framebuffer) (r : Nibble) : (s.setFb fb).reg r = s.reg r := rfl
@[simp] theorem setFb_key (fb : Framebuffer) (j : Nibble) : (s.setFb fb).key j = s.key j := rfl
@[simp] theorem setFb_peek (fb : Framebuffer) (a : Nat) : (s.setFb fb).peek a = s.peek a := rfl

/-! ### `latch` -/

@[simp] theorem latch_mem (f : Fault) : (s.latch f).mem = s.mem := rfl
@[simp] theorem latch_v (f : Fault) : (s.latch f).v = s.v := rfl
@[simp] theorem latch_index (f : Fault) : (s.latch f).index = s.index := rfl
@[simp] theorem latch_pc (f : Fault) : (s.latch f).pc = s.pc := rfl
@[simp] theorem latch_stack (f : Fault) : (s.latch f).stack = s.stack := rfl
@[simp] theorem latch_sp (f : Fault) : (s.latch f).sp = s.sp := rfl
@[simp] theorem latch_dt (f : Fault) : (s.latch f).dt = s.dt := rfl
@[simp] theorem latch_st (f : Fault) : (s.latch f).st = s.st := rfl
@[simp] theorem latch_keys (f : Fault) : (s.latch f).keys = s.keys := rfl
@[simp] theorem latch_wait (f : Fault) : (s.latch f).wait = s.wait := rfl
@[simp] theorem latch_fb (f : Fault) : (s.latch f).fb = s.fb := rfl
@[simp] theorem latch_fault (f : Fault) : (s.latch f).fault = some (s.fault.getD f) := rfl
@[simp] theorem latch_cfg (f : Fault) : (s.latch f).cfg = s.cfg := rfl
@[simp] theorem latch_draws (f : Fault) : (s.latch f).draws = s.draws := rfl
@[simp] theorem latch_random (f : Fault) : (s.latch f).random = s.random := rfl
@[simp] theorem latch_reg (f : Fault) (r : Nibble) : (s.latch f).reg r = s.reg r := rfl
@[simp] theorem latch_key (f : Fault) (j : Nibble) : (s.latch f).key j = s.key j := rfl
@[simp] theorem latch_peek (f : Fault) (a : Nat) : (s.latch f).peek a = s.peek a := rfl

/-! ### `tick` -/

@[simp] theorem tick_mem : (s.tick).mem = s.mem := rfl
@[simp] theorem tick_v : (s.tick).v = s.v := rfl
@[simp] theorem tick_index : (s.tick).index = s.index := rfl
@[simp] theorem tick_pc : (s.tick).pc = s.pc := rfl
@[simp] theorem tick_stack : (s.tick).stack = s.stack := rfl
@[simp] theorem tick_sp : (s.tick).sp = s.sp := rfl
@[simp] theorem tick_dt : (s.tick).dt = tickTimer s.dt := rfl
@[simp] theorem tick_st : (s.tick).st = tickTimer s.st := rfl
@[simp] theorem tick_keys : (s.tick).keys = s.keys := rfl
@[simp] theorem tick_wait : (s.tick).wait = s.wait := rfl
@[simp] theorem tick_fb : (s.tick).fb = s.fb := rfl
@[simp] theorem tick_fault : (s.tick).fault = s.fault := rfl
@[simp] theorem tick_cfg : (s.tick).cfg = s.cfg := rfl
@[simp] theorem tick_draws : (s.tick).draws = s.draws := rfl
@[simp] theorem tick_random : (s.tick).random = s.random := rfl
@[simp] theorem tick_reg (r : Nibble) : (s.tick).reg r = s.reg r := rfl
@[simp] theorem tick_key (j : Nibble) : (s.tick).key j = s.key j := rfl
@[simp] theorem tick_peek (a : Nat) : (s.tick).peek a = s.peek a := rfl

/-! ### `takeRandom` -/

@[simp] theorem takeRandom_mem : (s.takeRandom).mem = s.mem := rfl
@[simp] theorem takeRandom_v : (s.takeRandom).v = s.v := rfl
@[simp] theorem takeRandom_index : (s.takeRandom).index = s.index := rfl
@[simp] theorem takeRandom_pc : (s.takeRandom).pc = s.pc := rfl
@[simp] theorem takeRandom_stack : (s.takeRandom).stack = s.stack := rfl
@[simp] theorem takeRandom_sp : (s.takeRandom).sp = s.sp := rfl
@[simp] theorem takeRandom_dt : (s.takeRandom).dt = s.dt := rfl
@[simp] theorem takeRandom_st : (s.takeRandom).st = s.st := rfl
@[simp] theorem takeRandom_keys : (s.takeRandom).keys = s.keys := rfl
@[simp] theorem takeRandom_wait : (s.takeRandom).wait = s.wait := rfl
@[simp] theorem takeRandom_fb : (s.takeRandom).fb = s.fb := rfl
@[simp] theorem takeRandom_fault : (s.takeRandom).fault = s.fault := rfl
@[simp] theorem takeRandom_cfg : (s.takeRandom).cfg = s.cfg := rfl
@[simp] theorem takeRandom_draws : (s.takeRandom).draws = s.draws + 1 := rfl
@[simp] theorem takeRandom_random : (s.takeRandom).random = s.random.tail := rfl
@[simp] theorem takeRandom_reg (r : Nibble) : (s.takeRandom).reg r = s.reg r := rfl
@[simp] theorem takeRandom_key (j : Nibble) : (s.takeRandom).key j = s.key j := rfl
@[simp] theorem takeRandom_peek (a : Nat) : (s.takeRandom).peek a = s.peek a := rfl

/-! ### `supplyRandom` -/

@[simp] theorem supplyRandom_mem (bytes : List Byte) : (s.supplyRandom bytes).mem = s.mem := rfl
@[simp] theorem supplyRandom_v (bytes : List Byte) : (s.supplyRandom bytes).v = s.v := rfl
@[simp] theorem supplyRandom_index (bytes : List Byte) : (s.supplyRandom bytes).index = s.index := rfl
@[simp] theorem supplyRandom_pc (bytes : List Byte) : (s.supplyRandom bytes).pc = s.pc := rfl
@[simp] theorem supplyRandom_stack (bytes : List Byte) : (s.supplyRandom bytes).stack = s.stack := rfl
@[simp] theorem supplyRandom_sp (bytes : List Byte) : (s.supplyRandom bytes).sp = s.sp := rfl
@[simp] theorem supplyRandom_dt (bytes : List Byte) : (s.supplyRandom bytes).dt = s.dt := rfl
@[simp] theorem supplyRandom_st (bytes : List Byte) : (s.supplyRandom bytes).st = s.st := rfl
@[simp] theorem supplyRandom_keys (bytes : List Byte) : (s.supplyRandom bytes).keys = s.keys := rfl
@[simp] theorem supplyRandom_wait (bytes : List Byte) : (s.supplyRandom bytes).wait = s.wait := rfl
@[simp] theorem supplyRandom_fb (bytes : List Byte) : (s.supplyRandom bytes).fb = s.fb := rfl
@[simp] theorem supplyRandom_fault (bytes : List Byte) : (s.supplyRandom bytes).fault = s.fault := rfl
@[simp] theorem supplyRandom_cfg (bytes : List Byte) : (s.supplyRandom bytes).cfg = s.cfg := rfl
@[simp] theorem supplyRandom_draws (bytes : List Byte) : (s.supplyRandom bytes).draws = s.draws := rfl
@[simp] theorem supplyRandom_random (bytes : List Byte) : (s.supplyRandom bytes).random = s.random ++ bytes := rfl
@[simp] theorem supplyRandom_reg (bytes : List Byte) (r : Nibble) : (s.supplyRandom bytes).reg r = s.reg r := rfl
@[simp] theorem supplyRandom_key (bytes : List Byte) (j : Nibble) : (s.supplyRandom bytes).key j = s.key j := rfl
@[simp] theorem supplyRandom_peek (bytes : List Byte) (a : Nat) : (s.supplyRandom bytes).peek a = s.peek a := rfl

/-! ### `setRandom` -/

@[simp] theorem setRandom_mem (bytes : List Byte) : (s.setRandom bytes).mem = s.mem := rfl
@[simp] theorem setRandom_v (bytes : List Byte) : (s.setRandom bytes).v = s.v := rfl
@[simp] theorem setRandom_index (bytes : List Byte) : (s.setRandom bytes).index = s.index := rfl
@[simp] theorem setRandom_pc (bytes : List Byte) : (s.setRandom bytes).pc = s.pc := rfl
@[simp] theorem setRandom_stack (bytes : List Byte) : (s.setRandom bytes).stack = s.stack := rfl
@[simp] theorem setRandom_sp (bytes : List Byte) : (s.setRandom bytes).sp = s.sp := rfl
@[simp] theorem setRandom_dt (bytes : List Byte) : (s.setRandom bytes).dt = s.dt := rfl
@[simp] theorem setRandom_st (bytes : List Byte) : (s.setRandom bytes).st = s.st := rfl
@[simp] theorem setRandom_keys (bytes : List Byte) : (s.setRandom bytes).keys = s.keys := rfl
@[simp] theorem setRandom_wait (bytes : List Byte) : (s.setRandom bytes).wait = s.wait := rfl
@[simp] theorem setRandom_fb (bytes : List Byte) : (s.setRandom bytes).fb = s.fb := rfl
@[simp] theorem setRandom_fault (bytes : List Byte) : (s.setRandom bytes).fault = s.fault := rfl
@[simp] theorem setRandom_cfg (bytes : List Byte) : (s.setRandom bytes).cfg = s.cfg := rfl
@[simp] theorem setRandom_draws (bytes : List Byte) : (s.setRandom bytes).draws = s.draws := rfl
@[simp] theorem setRandom_random (bytes : List Byte) : (s.setRandom bytes).random = bytes := rfl
@[simp] theorem setRandom_reg (bytes : List Byte) (r : Nibble) : (s.setRandom bytes).reg r = s.reg r := rfl
@[simp] theorem setRandom_key (bytes : List Byte) (j : Nibble) : (s.setRandom bytes).key j = s.key j := rfl
@[simp] theorem setRandom_peek (bytes : List Byte) (a : Nat) : (s.setRandom bytes).peek a = s.peek a := rfl

/-! ### `poke` -/

@[simp] theorem poke_mem (a : Nat) (b : Byte) : (s.poke a b).mem = memWrite s.cfg s.mem a b := rfl
@[simp] theorem poke_v (a : Nat) (b : Byte) : (s.poke a b).v = s.v := rfl
@[simp] theorem poke_index (a : Nat) (b : Byte) : (s.poke a b).index = s.index := rfl
@[simp] theorem poke_pc (a : Nat) (b : Byte) : (s.poke a b).pc = s.pc := rfl
@[simp] theorem poke_stack (a : Nat) (b : Byte) : (s.poke a b).stack = s.stack := rfl
@[simp] theorem poke_sp (a : Nat) (b : Byte) : (s.poke a b).sp = s.sp := rfl
@[simp] theorem poke_dt (a : Nat) (b : Byte) : (s.poke a b).dt = s.dt := rfl
@[simp] theorem poke_st (a : Nat) (b : Byte) : (s.poke a b).st = s.st := rfl
@[simp] theorem poke_keys (a : Nat) (b : Byte) : (s.poke a b).keys = s.keys := rfl
@[simp] theorem poke_wait (a : Nat) (b : Byte) : (s.poke a b).wait = s.wait := rfl
@[simp] theorem poke_fb (a : Nat) (b : Byte) : (s.poke a b).fb = s.fb := rfl
@[simp] theorem poke_fault (a : Nat) (b : Byte) : (s.poke a b).fault = s.fault := rfl
@[simp] theorem poke_cfg (a : Nat) (b : Byte) : (s.poke a b).cfg = s.cfg := rfl
@[simp] theorem poke_draws (a : Nat) (b : Byte) : (s.poke a b).draws = s.draws := rfl
@[simp] theorem poke_random (a : Nat) (b : Byte) : (s.poke a b).random = s.random := rfl
@[simp] theorem poke_reg (a : Nat) (b : Byte) (r : Nibble) : (s.poke a b).reg r = s.reg r := rfl
@[simp] theorem poke_key (a : Nat) (b : Byte) (j : Nibble) : (s.poke a b).key j = s.key j := rfl

/-! ### Reads through the update that changes them -/

theorem setReg_reg (i : Nibble) (b : Byte) (r : Nibble) :
    (s.setReg i b).reg r = if r = i then b else s.reg r := by
  unfold State.reg State.setReg
  by_cases h : r = i
  · subst h; simp
  · have hne : i.toNat ≠ r.toNat := fun e => h (BitVec.eq_of_toNat_eq e.symm)
    simp [hne, h]

@[simp] theorem setReg_reg_same (i : Nibble) (b : Byte) : (s.setReg i b).reg i = b := by
  simp [setReg_reg]

theorem setReg_reg_ne (i : Nibble) (b : Byte) (r : Nibble) (h : r ≠ i) :
    (s.setReg i b).reg r = s.reg r := by
  simp [setReg_reg, h]

theorem setKey_key (k : Nibble) (b : Bool) (j : Nibble) :
    (s.setKey k b).key j = if j = k then b else s.key j := by
  unfold State.key State.setKey
  by_cases h : j = k
  · subst h; simp
  · have hne : k.toNat ≠ j.toNat := fun e => h (BitVec.eq_of_toNat_eq e.symm)
    simp [hne, h]

/-! ### The random input (R33) -/

/-- A draw takes the next supplied byte. -/
theorem nextRandom_cons (r : Byte) (rest : List Byte) (h : s.random = r :: rest) :
    s.nextRandom = r := by
  simp [State.nextRandom, h]

/-- Where none is supplied a draw is a free value. -/
theorem nextRandom_nil (h : s.random = []) : s.nextRandom = Config.randomByte s.draws := by
  simp [State.nextRandom, h]

/-! ### The composed updates -/

theorem writeReg_eq (x : Nibble) (b : Byte) : writeReg x b s = (s.setReg x b).advance := rfl

theorem writeFlagged_eq (flag : Byte) (x : Nibble) (b : Byte) :
    writeFlagged flag x b s = ((s.setReg 0xF flag).setReg x b).advance := rfl

theorem skipIf_eq (c : Bool) : skipIf c s = s.goto (if c then s.pc + 4 else s.pc + 2) := rfl

theorem latch_eq (f : Fault) (h : s.fault = none) : s.latch f = { s with fault := some f } := by
  simp [State.latch, h]

end Sys2Proof.Machine
end

