-- ==== Sys2Proof/Laws/Ops.lean ====
section
/-!
SUPPORT. One lemma per shared operation that says once everything it can do, for the provers to cite
instead of unfolding it.
-/

namespace Sys2Proof.Machine

/-! ### The range check and the fetch -/

/-- R54: the check passes exactly when there is nothing to access or the last address is inside. -/
theorem firstBad_eq_none_iff (base count : Nat) :
    firstBad base count = none ↔ count = 0 ∨ base + count ≤ 4096 := by
  unfold firstBad memSize
  split
  · simp [*]
  · split <;> simp [*]

/-- R55: when it fails it reports the first address of the range above 4095. -/
theorem firstBad_eq_some (base count : Nat) (hc : count ≠ 0) (h : 4096 < base + count) :
    firstBad base count = some (max base 4096) := by
  unfold firstBad memSize
  rw [if_neg (by omega), if_neg hc]

/-- R182: the fetch of a word inside memory. -/
theorem fetch_ok (s : State) (h : s.pc.toNat + 1 < 4096) :
    s.fetch = .ok (wordOfBytes (s.peek s.pc.toNat) (s.peek (s.pc.toNat + 1))) := by
  unfold State.fetch
  rw [(firstBad_eq_none_iff _ _).2 (Or.inr (by omega))]

/-- R182: the fetch past the last word of memory. -/
theorem fetch_error (s : State) (h : 4096 ≤ s.pc.toNat + 1) :
    s.fetch = .error (.outOfRange .mem (max s.pc.toNat 4096)) := by
  unfold State.fetch
  rw [firstBad_eq_some _ _ (by decide) (by omega)]

/-- R56, R204: a memory instruction whose range is inside memory goes on. -/
theorem withIndexRange_ok (count : Nat) (s : State) (act : State → State)
    (h : count = 0 ∨ s.index.toNat + count ≤ 4096) :
    withIndexRange count s act = .next (act s) := by
  unfold withIndexRange
  rw [(firstBad_eq_none_iff _ _).2 h]

/-- R56, R204: one whose range leaves memory raises the fault and does nothing else. -/
theorem withIndexRange_bad (count : Nat) (s : State) (act : State → State) (hc : count ≠ 0)
    (h : 4096 < s.index.toNat + count) :
    withIndexRange count s act =
      .next (s.latch (.outOfRange .mem (max s.index.toNat 4096))) := by
  unfold withIndexRange
  rw [firstBad_eq_some _ _ hc h]
  rfl

/-- Everything the range check can do: go on inside memory, or raise the fault. -/
theorem withIndexRange_inv {count : Nat} {s t : State} {act : State → State}
    (h : withIndexRange count s act = .next t) :
    (t = act s ∧ (count = 0 ∨ s.index.toNat + count ≤ 4096)) ∨
      (t = s.latch (.outOfRange .mem (max s.index.toNat 4096)) ∧ count ≠ 0 ∧
        4096 < s.index.toNat + count) := by
  by_cases hc : count = 0 ∨ s.index.toNat + count ≤ 4096
  · rw [withIndexRange_ok _ _ _ hc] at h
    cases h
    exact .inl ⟨rfl, hc⟩
  · rw [withIndexRange_bad _ _ _ (by omega) (by omega)] at h
    cases h
    exact .inr ⟨rfl, by omega, by omega⟩

/-! ### The next program counter -/

/-- R183: inside memory PC + 2 does not wrap. -/
theorem advance_pc_toNat (s : State) (h : s.pc.toNat + 1 ≤ 4095) :
    s.advance.pc.toNat = s.pc.toNat + 2 := by
  simp only [advance_pc, BitVec.toNat_add, BitVec.reduceToNat]
  omega

/-- R183: inside memory PC + 4 and PC + 2 do not wrap. -/
theorem skipIf_pc_toNat (c : Bool) (s : State) (h : s.pc.toNat + 1 ≤ 4095) :
    (skipIf c s).pc.toNat = if c then s.pc.toNat + 4 else s.pc.toNat + 2 := by
  cases c <;> simp only [skipIf, goto_pc, Bool.false_eq_true, if_false, if_true,
    BitVec.toNat_add, BitVec.reduceToNat] <;> omega

/-! ### The call stack -/

/-- R24 Push with room. -/
theorem push_ok (s : State) (a : Word) (h : s.sp.val < 16) :
    s.push a = .ok { s with stack := s.stack.set s.sp.val a h, sp := ⟨s.sp.val + 1, by omega⟩ } := by
  simp [State.push, h]

/-- R24 Push without room. -/
theorem push_full (s : State) (a : Word) (h : s.sp.val = 16) :
    s.push a = .error .stackOverflow := by
  simp [State.push, h]

/-- R24 Pop of a stack that is not empty. -/
theorem pop_ok (s : State) (h : 0 < s.sp.val) :
    s.pop = .ok (s.stack[s.sp.val - 1]'(by omega),
      { s with sp := ⟨s.sp.val - 1, by omega⟩ }) := by
  simp only [State.pop, h, dif_pos]

/-- R24 Pop of an empty stack. -/
theorem pop_empty (s : State) (h : s.sp.val = 0) : s.pop = .error .stackUnderflow := by
  simp [State.pop, h]

/-! ### Key numbers, timers -/

/-- R170, R171: a key number in range. -/
theorem keyOperand_ok (x : Nibble) (s : State) (h : (s.reg x).toNat ≤ 15) :
    keyOperand x s = .ok ((s.reg x).setWidth 4) := by
  simp [keyOperand, h]

/-- R170, R171: a key number above 15. -/
theorem keyOperand_bad (x : Nibble) (s : State) (h : 15 < (s.reg x).toNat) :
    keyOperand x s = .error (.outOfRange .key (s.reg x).toNat) := by
  simp [keyOperand, Nat.not_le.2 h]

/-- R181: one less, not below zero. -/
theorem tickTimer_toNat (t : Byte) : (tickTimer t).toNat = t.toNat - 1 := by
  unfold tickTimer
  split
  · simp [*]
  · rename_i h
    have : t.toNat ≠ 0 := fun e => h (BitVec.eq_of_toNat_eq (by simpa using e))
    rw [BitVec.toNat_sub_of_le (by rw [BitVec.le_def]; simp; omega)]
    simp

/-! ### The results and flags as integers -/

/-- R121, R122: the sum is taken modulo 256. -/
theorem sumByte_toNat (a b : Byte) : (sumByte a b).toNat = (a.toNat + b.toNat) % 256 := by
  simp [sumByte]

/-- R123, R124: the difference is taken modulo 256. -/
theorem diffByte_toNat (a b : Byte) : (diffByte a b).toNat = (a.toNat + 256 - b.toNat) % 256 := by
  have ha := a.isLt
  have hb := b.isLt
  simp only [diffByte, BitVec.toNat_ofInt]
  omega

/-- R128: the half. -/
theorem halfByte_toNat (a : Byte) : (halfByte a).toNat = a.toNat / 2 := by
  have := a.isLt
  simp only [halfByte, BitVec.toNat_ofNat]
  omega

/-- R129: the double modulo 256. -/
theorem doubleByte_toNat (a : Byte) : (doubleByte a).toNat = a.toNat * 2 % 256 := by
  simp [doubleByte]

/-- A flag is 1 or 0. -/
theorem flagByte_toNat (c : Bool) : (flagByte c).toNat = if c then 1 else 0 := by
  cases c <;> rfl

/-! ### Moving registers to memory and back -/

/-- R154: dumping registers changes memory alone. -/
theorem dumpRegs_keeps (k : Nat) (s : State) : ∃ m, dumpRegs k s = { s with mem := m } := by
  induction k with
  | zero => exact ⟨s.mem, rfl⟩
  | succ k ih =>
    obtain ⟨m, hm⟩ := ih
    exact ⟨_, by rw [dumpRegs, hm]; rfl⟩

/-- R154: dumping keeps the canonical form of memory. -/
theorem dumpRegs_memWf (k : Nat) (s : State) (h : memWf s.cfg s.mem = true) :
    memWf (dumpRegs k s).cfg (dumpRegs k s).mem = true := by
  induction k with
  | zero => exact h
  | succ k ih => exact poke_memWf _ _ _ ih

/-- R154: the bytes outside the dumped range are unchanged. -/
theorem dumpRegs_peek_outside (k : Nat) (s : State) (a : Nat)
    (h : ¬(s.index.toNat ≤ a ∧ a < s.index.toNat + k)) : (dumpRegs k s).peek a = s.peek a := by
  induction k with
  | zero => rfl
  | succ k ih =>
    obtain ⟨m, hm⟩ := dumpRegs_keeps k s
    have hi : (dumpRegs k s).index = s.index := by rw [hm]
    rw [dumpRegs, poke_peek_ne _ _ (by rw [hi]; omega)]
    exact ih (by omega)

/-- R154: each dumped byte holds its register. -/
theorem dumpRegs_peek_inside (k : Nat) (s : State) (h : memWf s.cfg s.mem = true)
    (hk : s.index.toNat + k ≤ 4096) (j : Nat) (hj : j < k) :
    (dumpRegs k s).peek (s.index.toNat + j) = s.reg (BitVec.ofNat 4 j) := by
  induction k with
  | zero => omega
  | succ k ih =>
    obtain ⟨m, hm⟩ := dumpRegs_keeps k s
    have hi : (dumpRegs k s).index = s.index := by rw [hm]
    have hr : ∀ r, (dumpRegs k s).reg r = s.reg r := fun r => by rw [hm]; rfl
    rw [dumpRegs, hi]
    by_cases hjk : j = k
    · subst hjk
      rw [poke_peek_same _ _ (dumpRegs_memWf j s h) (by omega), hr]
    · rw [poke_peek_ne _ _ (by omega)]
      exact ih (by omega) (by omega)

/-- R155: loading registers changes the registers alone. -/
theorem loadRegs_keeps (k : Nat) (s : State) : ∃ v, loadRegs k s = { s with v := v } := by
  induction k with
  | zero => exact ⟨s.v, rfl⟩
  | succ k ih =>
    obtain ⟨v, hv⟩ := ih
    exact ⟨_, by rw [loadRegs, hv]; rfl⟩

/-- R155: the first `k` registers take the bytes from I on, the others keep their values. -/
theorem loadRegs_reg (k : Nat) (hk : k ≤ 16) (s : State) (r : Nibble) :
    (loadRegs k s).reg r =
      if r.toNat < k then s.peek (s.index.toNat + r.toNat) else s.reg r := by
  induction k with
  | zero => simp [loadRegs]
  | succ k ih =>
    obtain ⟨v, hv⟩ := loadRegs_keeps k s
    have hp : ∀ a, (loadRegs k s).peek a = s.peek a := fun a => by rw [hv]; rfl
    have hi : (loadRegs k s).index = s.index := by rw [hv]
    have hmod : (BitVec.ofNat 4 k).toNat = k := by
      rw [BitVec.toNat_ofNat]
      omega
    rw [loadRegs, setReg_reg, hp, hi, ih (by omega)]
    by_cases hr : r = BitVec.ofNat 4 k
    · subst hr
      simp [hmod]
    · have hne : r.toNat ≠ k := fun e => hr (BitVec.eq_of_toNat_eq (by rw [hmod, e]))
      rw [if_neg hr]
      by_cases hlt : r.toNat < k
      · rw [if_pos hlt, if_pos (by omega)]
      · rw [if_neg hlt, if_neg (by omega)]

/-! ### The random input beside the register loops -/

/-- Dumping registers does not look at the random input. -/
theorem dumpRegs_setRandom (k : Nat) (s : State) (bytes : List Byte) :
    dumpRegs k (s.setRandom bytes) = (dumpRegs k s).setRandom bytes := by
  induction k with
  | zero => rfl
  | succ k ih => rw [dumpRegs, ih]; rfl

/-- Loading registers does not look at the random input. -/
theorem loadRegs_setRandom (k : Nat) (s : State) (bytes : List Byte) :
    loadRegs k (s.setRandom bytes) = (loadRegs k s).setRandom bytes := by
  induction k with
  | zero => rfl
  | succ k ih => rw [loadRegs, ih]; rfl

/-! ### The framebuffer -/

/-- A pixel read after one pixel is set. -/
theorem fbPixel_fbSet (fb : Framebuffer) (px py qx qy : Nat) (b : Bool) :
    fbPixel (fbSet fb px py b) qx qy =
      if px % 64 = qx % 64 ∧ py % 32 = qy % 32 then b else fbPixel fb qx qy := by
  unfold fbPixel fbSet
  by_cases hy : py % 32 = qy % 32
  · by_cases hx : px % 64 = qx % 64
    · simp [hx, hy]
    · simp [hx, hy]
  · simp [hy]

/-- Two framebuffers with the same pixels are equal. -/
theorem fb_ext {f g : Framebuffer}
    (h : ∀ px py : Nat, px < 64 → py < 32 → fbPixel f px py = fbPixel g px py) : f = g := by
  apply Vector.ext
  intro py hpy
  apply Vector.ext
  intro px hpx
  have := h px py hpx hpy
  simpa [fbPixel, Nat.mod_eq_of_lt hpx, Nat.mod_eq_of_lt hpy] using this

/-- R161: every pixel of the blank framebuffer is off. -/
theorem fbPixel_blankFb (px py : Nat) : fbPixel blankFb px py = false := by
  simp [fbPixel, blankFb]

/-! ### The controller -/

/-- R191: a halted machine's step does nothing. -/
theorem step_halted (s : State) (h : s.fault ≠ none) : step s = .next s := by
  have : s.fault.isSome = true := Option.isSome_iff_ne_none.2 h
  simp [step, controllerStep, this]

/-- R184: a blocked step is the tick. -/
theorem step_blocked (s : State) (h : s.fault = none) (r : Nibble) (hw : s.wait = some r) :
    step s = .next s.tick := by
  simp [step, controllerStep, h, hw]

/-- R180: the step of a machine that is neither halted nor blocked. -/
theorem step_running (s : State) (h : s.fault = none) (hw : s.wait = none) :
    step s = fetchExecute s.tick := by
  simp [step, controllerStep, h, hw]

end Sys2Proof.Machine
end

