-- ==== Sys2Proof/Laws/Drawing.lean ====
section
/-!
SUPPORT. What the loops of Draw do, pixel by pixel (spec 45_drawing.md R160).
-/

namespace Sys2Proof.Machine

/-- A 1 bit among the first `k` columns of a sprite row falls on column `qx`, row `qy`. -/
def ColsCover (cx py : Nat) (b : Byte) (k qx qy : Nat) : Prop :=
  py % 32 = qy % 32 ∧ ∃ col : Nat, col < k ∧ (cx + col) % 64 = qx % 64 ∧ b.getLsbD (7 - col) = true

/-- A 1 bit among the first `k` rows of a sprite falls on column `qx`, row `qy`. -/
def RowsCover (cx cy : Nat) (sprite : Nat → Byte) (k qx qy : Nat) : Prop :=
  ∃ row : Nat, row < k ∧ ColsCover cx (cy + row) (sprite row) 8 qx qy

/-- One sprite row toggles the pixels its 1 bits fall on and no other. -/
theorem blitCols_pixel (cx py : Nat) (b : Byte) (k : Nat) (hk : k ≤ 64) (acc : Framebuffer × Bool)
    (qx qy : Nat) :
    (ColsCover cx py b k qx qy →
      fbPixel (blitCols cx py b k acc).1 qx qy = !fbPixel acc.1 qx qy) ∧
    (¬ColsCover cx py b k qx qy →
      fbPixel (blitCols cx py b k acc).1 qx qy = fbPixel acc.1 qx qy) := by
  induction k with
  | zero =>
    refine ⟨?_, fun _ => rfl⟩
    rintro ⟨-, col, h, -⟩
    omega
  | succ k ih =>
    obtain ⟨ih1, ih2⟩ := ih (by omega)
    simp only [blitCols, blitBit]
    by_cases hb : b.getLsbD (7 - k) = true
    · rw [if_pos hb, fbPixel_fbSet]
      by_cases hq : (cx + k) % 64 = qx % 64 ∧ py % 32 = qy % 32
      · have hn : ¬ColsCover cx py b k qx qy := by
          rintro ⟨-, col, h1, h2, -⟩
          omega
        have hp : fbPixel (blitCols cx py b k acc).1 (cx + k) py =
            fbPixel (blitCols cx py b k acc).1 qx qy := by
          simp only [fbPixel, hq.1, hq.2]
        rw [if_pos hq, hp, ih2 hn]
        exact ⟨fun _ => rfl, fun h => absurd ⟨hq.2, k, by omega, hq.1, hb⟩ h⟩
      · rw [if_neg hq]
        refine ⟨?_, fun h => ih2 ?_⟩
        · rintro ⟨hy, col, h1, h2, h3⟩
          by_cases hc : col = k
          · subst hc
            exact absurd ⟨h2, hy⟩ hq
          · exact ih1 ⟨hy, col, by omega, h2, h3⟩
        · rintro ⟨hy, col, h1, h2, h3⟩
          exact h ⟨hy, col, by omega, h2, h3⟩
    · rw [if_neg hb]
      refine ⟨?_, fun h => ih2 ?_⟩
      · rintro ⟨hy, col, h1, h2, h3⟩
        by_cases hc : col = k
        · subst hc
          exact absurd h3 hb
        · exact ih1 ⟨hy, col, by omega, h2, h3⟩
      · rintro ⟨hy, col, h1, h2, h3⟩
        exact h ⟨hy, col, by omega, h2, h3⟩

/-- One sprite row collides when it did before or when a 1 bit falls on a pixel that is on. -/
theorem blitCols_collision (cx py : Nat) (b : Byte) (k : Nat) (hk : k ≤ 64)
    (acc : Framebuffer × Bool) :
    (blitCols cx py b k acc).2 = true ↔
      acc.2 = true ∨ ∃ qx qy : Nat, qx < 64 ∧ qy < 32 ∧ ColsCover cx py b k qx qy ∧
        fbPixel acc.1 qx qy = true := by
  induction k with
  | zero =>
    simp only [blitCols]
    refine ⟨.inl, ?_⟩
    rintro (h | ⟨qx, qy, -, -, ⟨-, col, h, -⟩, -⟩)
    · exact h
    · omega
  | succ k ih =>
    have ih := ih (by omega)
    have grow : ∀ qx qy, ColsCover cx py b k qx qy → ColsCover cx py b (k + 1) qx qy := by
      rintro qx qy ⟨hy, col, h1, h2, h3⟩
      exact ⟨hy, col, by omega, h2, h3⟩
    have hold : fbPixel (blitCols cx py b k acc).1 (cx + k) py = fbPixel acc.1 (cx + k) py := by
      refine (blitCols_pixel cx py b k (by omega) acc _ _).2 ?_
      rintro ⟨-, col, h1, h2, -⟩
      omega
    have hmod : ∀ fb : Framebuffer, fbPixel fb ((cx + k) % 64) (py % 32) = fbPixel fb (cx + k) py := by
      intro fb
      simp [fbPixel]
    simp only [blitCols, blitBit]
    by_cases hb : b.getLsbD (7 - k) = true
    · rw [if_pos hb]
      simp only [Bool.or_eq_true, ih, hold]
      constructor
      · rintro ((h | ⟨qx, qy, h1, h2, h3, h4⟩) | h)
        · exact .inl h
        · exact .inr ⟨qx, qy, h1, h2, grow _ _ h3, h4⟩
        · exact .inr ⟨(cx + k) % 64, py % 32, by omega, by omega,
            ⟨by omega, k, by omega, by omega, hb⟩, (hmod _).trans h⟩
      · rintro (h | ⟨qx, qy, h1, h2, ⟨hy, col, c1, c2, c3⟩, h4⟩)
        · exact .inl (.inl h)
        · by_cases hc : col = k
          · subst hc
            refine .inr ?_
            rw [← hmod, show (cx + col) % 64 = qx by omega, show py % 32 = qy by omega]
            exact h4
          · exact .inl (.inr ⟨qx, qy, h1, h2, ⟨hy, col, by omega, c2, c3⟩, h4⟩)
    · rw [if_neg hb, ih]
      refine or_congr_right ⟨?_, ?_⟩
      · rintro ⟨qx, qy, h1, h2, h3, h4⟩
        exact ⟨qx, qy, h1, h2, grow _ _ h3, h4⟩
      · rintro ⟨qx, qy, h1, h2, ⟨hy, col, c1, c2, c3⟩, h4⟩
        refine ⟨qx, qy, h1, h2, ⟨hy, col, ?_, c2, c3⟩, h4⟩
        have : col ≠ k := by
          rintro rfl
          exact hb c3
        omega

/-- A sprite of at most 32 rows toggles the pixels its 1 bits fall on and no other. -/
theorem blitRows_pixel (cx cy : Nat) (sprite : Nat → Byte) (k : Nat) (hk : k ≤ 32)
    (acc : Framebuffer × Bool) (qx qy : Nat) :
    (RowsCover cx cy sprite k qx qy →
      fbPixel (blitRows cx cy sprite k acc).1 qx qy = !fbPixel acc.1 qx qy) ∧
    (¬RowsCover cx cy sprite k qx qy →
      fbPixel (blitRows cx cy sprite k acc).1 qx qy = fbPixel acc.1 qx qy) := by
  induction k with
  | zero =>
    refine ⟨?_, fun _ => rfl⟩
    rintro ⟨row, h, -⟩
    omega
  | succ k ih =>
    obtain ⟨ih1, ih2⟩ := ih (by omega)
    have hc := blitCols_pixel cx (cy + k) (sprite k) 8 (by omega) (blitRows cx cy sprite k acc) qx qy
    simp only [blitRows]
    by_cases hl : ColsCover cx (cy + k) (sprite k) 8 qx qy
    · have hn : ¬RowsCover cx cy sprite k qx qy := by
        rintro ⟨row, h1, h2, -⟩
        have := hl.1
        omega
      rw [hc.1 hl, ih2 hn]
      exact ⟨fun _ => rfl, fun h => absurd ⟨k, by omega, hl⟩ h⟩
    · rw [hc.2 hl]
      refine ⟨?_, fun h => ih2 ?_⟩
      · rintro ⟨row, h1, h2⟩
        by_cases hr : row = k
        · subst hr
          exact absurd h2 hl
        · exact ih1 ⟨row, by omega, h2⟩
      · rintro ⟨row, h1, h2⟩
        exact h ⟨row, by omega, h2⟩

/-- A sprite of at most 32 rows collides when a 1 bit falls on a pixel that was on. -/
theorem blitRows_collision (cx cy : Nat) (sprite : Nat → Byte) (k : Nat) (hk : k ≤ 32)
    (acc : Framebuffer × Bool) :
    (blitRows cx cy sprite k acc).2 = true ↔
      acc.2 = true ∨ ∃ qx qy : Nat, qx < 64 ∧ qy < 32 ∧ RowsCover cx cy sprite k qx qy ∧
        fbPixel acc.1 qx qy = true := by
  induction k with
  | zero =>
    simp only [blitRows]
    refine ⟨.inl, ?_⟩
    rintro (h | ⟨qx, qy, -, -, ⟨row, h, -⟩, -⟩)
    · exact h
    · omega
  | succ k ih =>
    have ih := ih (by omega)
    have hold : ∀ qx qy, ColsCover cx (cy + k) (sprite k) 8 qx qy →
        fbPixel (blitRows cx cy sprite k acc).1 qx qy = fbPixel acc.1 qx qy := by
      intro qx qy hl
      refine (blitRows_pixel cx cy sprite k (by omega) acc _ _).2 ?_
      rintro ⟨row, h1, h2, -⟩
      have := hl.1
      omega
    simp only [blitRows]
    rw [blitCols_collision _ _ _ _ (by omega), ih]
    constructor
    · rintro ((h | ⟨qx, qy, h1, h2, ⟨row, h3, h4⟩, h5⟩) | ⟨qx, qy, h1, h2, h3, h4⟩)
      · exact .inl h
      · exact .inr ⟨qx, qy, h1, h2, ⟨row, by omega, h4⟩, h5⟩
      · exact .inr ⟨qx, qy, h1, h2, ⟨k, by omega, h3⟩, (hold _ _ h3).symm.trans h4⟩
    · rintro (h | ⟨qx, qy, h1, h2, ⟨row, h3, h4⟩, h5⟩)
      · exact .inl (.inl h)
      · by_cases hr : row = k
        · subst hr
          exact .inr ⟨qx, qy, h1, h2, h4, (hold _ _ h4).trans h5⟩
        · exact .inl (.inr ⟨qx, qy, h1, h2, ⟨row, by omega, h4⟩, h5⟩)

end Sys2Proof.Machine
end

