-- ==== Sys2Proof/Laws/Encoding.lean ====
section
/-!
SUPPORT. The fields of an instruction word as integers, and what the fields of a word put together from
its parts are (spec 30_encoding.md R71).
-/

namespace Sys2Proof

/-- Two parts put together, as an integer. -/
theorem append_toNat {m n : Nat} (x : BitVec m) (y : BitVec n) :
    (x ++ y).toNat = x.toNat * 2 ^ n + y.toNat := by
  rw [BitVec.toNat_append, ← Nat.shiftLeft_add_eq_or_of_lt y.isLt, Nat.shiftLeft_eq]

/-- Format A as an integer. -/
theorem word_nnn_toNat (p : Nibble) (a : Addr12) :
    (show Word from p ++ a).toNat = p.toNat * 4096 + a.toNat :=
  append_toNat p a

/-- Formats XI and X as an integer. -/
theorem word_xnn_toNat (p x : Nibble) (b : Byte) :
    (show Word from p ++ x ++ b).toNat = p.toNat * 4096 + x.toNat * 256 + b.toNat := by
  have h : (show Word from p ++ x ++ b).toNat = (p ++ x).toNat * 2 ^ 8 + b.toNat :=
    append_toNat (p ++ x) b
  rw [h, append_toNat p x]
  omega

/-- Formats XY and XYN as an integer. -/
theorem word_xyn_toNat (p x y n : Nibble) :
    (show Word from p ++ x ++ y ++ n).toNat =
      p.toNat * 4096 + x.toNat * 256 + y.toNat * 16 + n.toNat := by
  have h : (show Word from p ++ x ++ y ++ n).toNat = (p ++ x ++ y).toNat * 2 ^ 4 + n.toNat :=
    append_toNat (p ++ x ++ y) n
  rw [h, append_toNat (p ++ x) y, append_toNat p x]
  omega

/-- R52: the word of two bytes, the first most significant. -/
theorem wordOfBytes_toNat (hi lo : Byte) :
    (wordOfBytes hi lo).toNat = hi.toNat * 256 + lo.toNat :=
  append_toNat hi lo

/-- A field of a word as an integer. -/
theorem field_toNat (w : Word) (lo len : Nat) :
    (w.extractLsb' lo len).toNat = w.toNat / 2 ^ lo % 2 ^ len := by
  rw [BitVec.extractLsb'_toNat, Nat.shiftRight_eq_div_pow]

theorem nib0_toNat (w : Word) : (nib0 w).toNat = w.toNat / 4096 := by
  have := w.isLt
  rw [nib0, field_toNat]
  omega

theorem nib1_toNat (w : Word) : (nib1 w).toNat = w.toNat / 256 % 16 :=
  field_toNat w 8 4

theorem nib2_toNat (w : Word) : (nib2 w).toNat = w.toNat / 16 % 16 :=
  field_toNat w 4 4

theorem nib3_toNat (w : Word) : (nib3 w).toNat = w.toNat % 16 := by
  rw [nib3, field_toNat]
  omega

theorem lowByte_toNat (w : Word) : (lowByte w).toNat = w.toNat % 256 := by
  rw [lowByte, field_toNat]
  omega

theorem low12_toNat (w : Word) : (low12 w).toNat = w.toNat % 4096 := by
  rw [low12, field_toNat]
  omega

/-- The fields of a word of format A. -/
theorem fields_nnn (p : Nibble) (a : Addr12) :
    nib0 (p ++ a) = p ∧ low12 (p ++ a) = a := by
  have ha := a.isLt
  have hw := word_nnn_toNat p a
  refine ⟨BitVec.eq_of_toNat_eq ?_, BitVec.eq_of_toNat_eq ?_⟩
  · exact (nib0_toNat _).trans (by rw [hw]; omega)
  · exact (low12_toNat _).trans (by rw [hw]; omega)

/-- The fields of a word of format XI or X. -/
theorem fields_xnn (p x : Nibble) (b : Byte) :
    nib0 (p ++ x ++ b) = p ∧ nib1 (p ++ x ++ b) = x ∧ lowByte (p ++ x ++ b) = b := by
  have hx := x.isLt
  have hb := b.isLt
  have hw := word_xnn_toNat p x b
  refine ⟨BitVec.eq_of_toNat_eq ?_, BitVec.eq_of_toNat_eq ?_, BitVec.eq_of_toNat_eq ?_⟩
  · exact (nib0_toNat _).trans (by rw [hw]; omega)
  · exact (nib1_toNat _).trans (by rw [hw]; omega)
  · exact (lowByte_toNat _).trans (by rw [hw]; omega)

/-- The fields of a word of format XY or XYN. -/
theorem fields_xyn (p x y n : Nibble) :
    nib0 (p ++ x ++ y ++ n) = p ∧ nib1 (p ++ x ++ y ++ n) = x ∧
      nib2 (p ++ x ++ y ++ n) = y ∧ nib3 (p ++ x ++ y ++ n) = n := by
  have hx := x.isLt
  have hy := y.isLt
  have hn := n.isLt
  have hw := word_xyn_toNat p x y n
  refine ⟨BitVec.eq_of_toNat_eq ?_, BitVec.eq_of_toNat_eq ?_, BitVec.eq_of_toNat_eq ?_,
    BitVec.eq_of_toNat_eq ?_⟩
  · exact (nib0_toNat _).trans (by rw [hw]; omega)
  · exact (nib1_toNat _).trans (by rw [hw]; omega)
  · exact (nib2_toNat _).trans (by rw [hw]; omega)
  · exact (nib3_toNat _).trans (by rw [hw]; omega)

/-- A decode that gives an instruction, or one that names the word it fails on. -/
theorem decode_ok_iff (strict : Bool) (w : Word) (i : Instr) :
    decode strict w = .ok i ↔ decodeOption strict w = some i := by
  unfold decode
  cases decodeOption strict w <;> simp

theorem decode_error_iff (strict : Bool) (w : Word) :
    decode strict w = .error (.decodeFailure w) ↔ decodeOption strict w = none := by
  unfold decode
  cases decodeOption strict w <;> simp

/-! ### The masks of the opcode map (R73) -/

/-- The mask 0xF000 keeps the top nibble. -/
theorem and_F000 (w : Word) : w &&& 0xF000 = (nib0 w).setWidth 16 <<< 12 := by
  apply BitVec.eq_of_getLsbD_eq
  intro i hi
  interval_cases i <;> simp [nib0]

/-- The mask 0xF00F keeps the top and the bottom nibble. -/
theorem and_F00F (w : Word) :
    w &&& 0xF00F = (nib0 w).setWidth 16 <<< 12 ||| (nib3 w).setWidth 16 := by
  apply BitVec.eq_of_getLsbD_eq
  intro i hi
  interval_cases i <;> simp [nib0, nib3]

/-- The mask 0xF0FF keeps the top nibble and the low byte. -/
theorem and_F0FF (w : Word) :
    w &&& 0xF0FF = (nib0 w).setWidth 16 <<< 12 ||| (lowByte w).setWidth 16 := by
  apply BitVec.eq_of_getLsbD_eq
  intro i hi
  interval_cases i <;> simp [nib0, lowByte]

theorem Row.selects_iff (r : Row) (strict : Bool) (w : Word) :
    r.selects strict w = true ↔ w &&& r.maskFor strict = r.pattern := by
  simp [Row.selects]

/-- A word of format A selects the row of its top nibble. -/
theorem selects_nnn (v : Variant) (p : Nibble) (a : Addr12) (strict : Bool) :
    (Row.mk v (p.setWidth 16 <<< 12) 0xF000 0xF000).selects strict (p ++ a) = true := by
  rw [Row.selects_iff]
  have h : (p ++ a) &&& (0xF000 : Word) = _ := and_F000 (p ++ a)
  rw [(fields_nnn p a).1] at h
  cases strict <;> exact h

/-- A word of format XI selects the row of its top nibble. -/
theorem selects_xnn (v : Variant) (p x : Nibble) (b : Byte) (strict : Bool) :
    (Row.mk v (p.setWidth 16 <<< 12) 0xF000 0xF000).selects strict (p ++ x ++ b) = true := by
  rw [Row.selects_iff]
  have h : (p ++ x ++ b) &&& (0xF000 : Word) = _ := and_F000 (p ++ x ++ b)
  rw [(fields_xnn p x b).1] at h
  cases strict <;> exact h

/-- A word of format X selects the row of its top nibble and low byte. -/
theorem selects_x (v : Variant) (p x : Nibble) (b : Byte) (strict : Bool) :
    (Row.mk v (p.setWidth 16 <<< 12 ||| b.setWidth 16) 0xF0FF 0xF0FF).selects strict
      (p ++ x ++ b) = true := by
  rw [Row.selects_iff]
  have h : (p ++ x ++ b) &&& (0xF0FF : Word) = _ := and_F0FF (p ++ x ++ b)
  rw [(fields_xnn p x b).1, (fields_xnn p x b).2.2] at h
  cases strict <;> exact h

/-- A word of format XYN selects the row of its top nibble. -/
theorem selects_xyn (v : Variant) (p x y n : Nibble) (strict : Bool) :
    (Row.mk v (p.setWidth 16 <<< 12) 0xF000 0xF000).selects strict (p ++ x ++ y ++ n) = true := by
  rw [Row.selects_iff]
  have h : (p ++ x ++ y ++ n) &&& (0xF000 : Word) = _ := and_F000 (p ++ x ++ y ++ n)
  rw [(fields_xyn p x y n).1] at h
  cases strict <;> exact h

/-- A word of format XY selects the row of its top and bottom nibble. -/
theorem selects_xy (v : Variant) (p x y n : Nibble) (strict : Bool) :
    (Row.mk v (p.setWidth 16 <<< 12 ||| n.setWidth 16) 0xF00F 0xF00F).selects strict
      (p ++ x ++ y ++ n) = true := by
  rw [Row.selects_iff]
  have h : (p ++ x ++ y ++ n) &&& (0xF00F : Word) = _ := and_F00F (p ++ x ++ y ++ n)
  rw [(fields_xyn p x y n).1, (fields_xyn p x y n).2.2.2] at h
  cases strict <;> exact h

/-- A canonical word of top nibble 5 or 9 selects its row with DEC_STRICT or without. -/
theorem selects_pair (v : Variant) (p x y : Nibble) (strict : Bool) :
    (Row.mk v (p.setWidth 16 <<< 12) 0xF000 0xF00F).selects strict (p ++ x ++ y ++ 0x0#4) = true := by
  cases strict
  · exact selects_xyn v p x y 0 false
  · have h := selects_xy v p x y 0 true
    rw [Row.selects_iff] at h ⊢
    exact h.trans (by simp)

end Sys2Proof
end

