-- ==== Sys2Proof/Laws/PerInstr.lean ====
section
/-!
SUPPORT. The family `Encoding` of statements per instruction: the encoded word of an instruction selects
the row of its variant in the opcode map, with DEC_STRICT on and off (spec 30_encoding.md R73, R83).
-/

namespace Sys2Proof.Laws.Encoding

/-- The word `encode` gives is in the row of the instruction's own variant (R73), under both settings
of DEC_STRICT. -/
def Statement (i : Instr) : Prop :=
  ∃ r ∈ opcodeRows, r.variant = i.variant ∧ ∀ strict : Bool, r.selects strict (encode i) = true

theorem clearScreen : Statement .clearScreen :=
  ⟨⟨.clearScreen, 0x00E0, 0xF0FF, 0xFFFF⟩, by decide, rfl, by decide⟩

theorem ret : Statement .ret :=
  ⟨⟨.ret, 0x00EE, 0xF0FF, 0xFFFF⟩, by decide, rfl, by decide⟩

theorem jump (nnn : Addr12) : Statement (.jump nnn) :=
  ⟨⟨.jump, 0x1000, 0xF000, 0xF000⟩, by decide, rfl, selects_nnn _ 0x1 nnn⟩

theorem call (nnn : Addr12) : Statement (.call nnn) :=
  ⟨⟨.call, 0x2000, 0xF000, 0xF000⟩, by decide, rfl, selects_nnn _ 0x2 nnn⟩

theorem skipEqImm (x : Nibble) (nn : Byte) : Statement (.skipEqImm x nn) :=
  ⟨⟨.skipEqImm, 0x3000, 0xF000, 0xF000⟩, by decide, rfl, selects_xnn _ 0x3 x nn⟩

theorem skipNeImm (x : Nibble) (nn : Byte) : Statement (.skipNeImm x nn) :=
  ⟨⟨.skipNeImm, 0x4000, 0xF000, 0xF000⟩, by decide, rfl, selects_xnn _ 0x4 x nn⟩

theorem skipEqReg (x : Nibble) (y : Nibble) : Statement (.skipEqReg x y) :=
  ⟨⟨.skipEqReg, 0x5000, 0xF000, 0xF00F⟩, by decide, rfl, selects_pair _ 0x5 x y⟩

theorem loadImm (x : Nibble) (nn : Byte) : Statement (.loadImm x nn) :=
  ⟨⟨.loadImm, 0x6000, 0xF000, 0xF000⟩, by decide, rfl, selects_xnn _ 0x6 x nn⟩

theorem addImm (x : Nibble) (nn : Byte) : Statement (.addImm x nn) :=
  ⟨⟨.addImm, 0x7000, 0xF000, 0xF000⟩, by decide, rfl, selects_xnn _ 0x7 x nn⟩

theorem move (x : Nibble) (y : Nibble) : Statement (.move x y) :=
  ⟨⟨.move, 0x8000, 0xF00F, 0xF00F⟩, by decide, rfl, selects_xy _ 0x8 x y 0x0⟩

theorem or (x : Nibble) (y : Nibble) : Statement (.or x y) :=
  ⟨⟨.or, 0x8001, 0xF00F, 0xF00F⟩, by decide, rfl, selects_xy _ 0x8 x y 0x1⟩

theorem and (x : Nibble) (y : Nibble) : Statement (.and x y) :=
  ⟨⟨.and, 0x8002, 0xF00F, 0xF00F⟩, by decide, rfl, selects_xy _ 0x8 x y 0x2⟩

theorem xor (x : Nibble) (y : Nibble) : Statement (.xor x y) :=
  ⟨⟨.xor, 0x8003, 0xF00F, 0xF00F⟩, by decide, rfl, selects_xy _ 0x8 x y 0x3⟩

theorem add (x : Nibble) (y : Nibble) : Statement (.add x y) :=
  ⟨⟨.add, 0x8004, 0xF00F, 0xF00F⟩, by decide, rfl, selects_xy _ 0x8 x y 0x4⟩

theorem sub (x : Nibble) (y : Nibble) : Statement (.sub x y) :=
  ⟨⟨.sub, 0x8005, 0xF00F, 0xF00F⟩, by decide, rfl, selects_xy _ 0x8 x y 0x5⟩

theorem shiftRight (x : Nibble) (y : Nibble) : Statement (.shiftRight x y) :=
  ⟨⟨.shiftRight, 0x8006, 0xF00F, 0xF00F⟩, by decide, rfl, selects_xy _ 0x8 x y 0x6⟩

theorem subRev (x : Nibble) (y : Nibble) : Statement (.subRev x y) :=
  ⟨⟨.subRev, 0x8007, 0xF00F, 0xF00F⟩, by decide, rfl, selects_xy _ 0x8 x y 0x7⟩

theorem shiftLeft (x : Nibble) (y : Nibble) : Statement (.shiftLeft x y) :=
  ⟨⟨.shiftLeft, 0x800E, 0xF00F, 0xF00F⟩, by decide, rfl, selects_xy _ 0x8 x y 0xE⟩

theorem skipNeReg (x : Nibble) (y : Nibble) : Statement (.skipNeReg x y) :=
  ⟨⟨.skipNeReg, 0x9000, 0xF000, 0xF00F⟩, by decide, rfl, selects_pair _ 0x9 x y⟩

theorem loadIndex (nnn : Addr12) : Statement (.loadIndex nnn) :=
  ⟨⟨.loadIndex, 0xA000, 0xF000, 0xF000⟩, by decide, rfl, selects_nnn _ 0xA nnn⟩

theorem jumpIndexed (nnn : Addr12) : Statement (.jumpIndexed nnn) :=
  ⟨⟨.jumpIndexed, 0xB000, 0xF000, 0xF000⟩, by decide, rfl, selects_nnn _ 0xB nnn⟩

theorem loadRand (x : Nibble) (nn : Byte) : Statement (.loadRand x nn) :=
  ⟨⟨.loadRand, 0xC000, 0xF000, 0xF000⟩, by decide, rfl, selects_xnn _ 0xC x nn⟩

theorem draw (x : Nibble) (y : Nibble) (n : Nibble) : Statement (.draw x y n) :=
  ⟨⟨.draw, 0xD000, 0xF000, 0xF000⟩, by decide, rfl, selects_xyn _ 0xD x y n⟩

theorem skipKeyPressed (x : Nibble) : Statement (.skipKeyPressed x) :=
  ⟨⟨.skipKeyPressed, 0xE09E, 0xF0FF, 0xF0FF⟩, by decide, rfl, selects_x _ 0xE x 0x9E⟩

theorem skipKeyNotPressed (x : Nibble) : Statement (.skipKeyNotPressed x) :=
  ⟨⟨.skipKeyNotPressed, 0xE0A1, 0xF0FF, 0xF0FF⟩, by decide, rfl, selects_x _ 0xE x 0xA1⟩

theorem loadDelay (x : Nibble) : Statement (.loadDelay x) :=
  ⟨⟨.loadDelay, 0xF007, 0xF0FF, 0xF0FF⟩, by decide, rfl, selects_x _ 0xF x 0x07⟩

theorem waitForKey (x : Nibble) : Statement (.waitForKey x) :=
  ⟨⟨.waitForKey, 0xF00A, 0xF0FF, 0xF0FF⟩, by decide, rfl, selects_x _ 0xF x 0x0A⟩

theorem setDelay (x : Nibble) : Statement (.setDelay x) :=
  ⟨⟨.setDelay, 0xF015, 0xF0FF, 0xF0FF⟩, by decide, rfl, selects_x _ 0xF x 0x15⟩

theorem setSound (x : Nibble) : Statement (.setSound x) :=
  ⟨⟨.setSound, 0xF018, 0xF0FF, 0xF0FF⟩, by decide, rfl, selects_x _ 0xF x 0x18⟩

theorem addIndex (x : Nibble) : Statement (.addIndex x) :=
  ⟨⟨.addIndex, 0xF01E, 0xF0FF, 0xF0FF⟩, by decide, rfl, selects_x _ 0xF x 0x1E⟩

theorem loadFont (x : Nibble) : Statement (.loadFont x) :=
  ⟨⟨.loadFont, 0xF029, 0xF0FF, 0xF0FF⟩, by decide, rfl, selects_x _ 0xF x 0x29⟩

theorem storeBCD (x : Nibble) : Statement (.storeBCD x) :=
  ⟨⟨.storeBCD, 0xF033, 0xF0FF, 0xF0FF⟩, by decide, rfl, selects_x _ 0xF x 0x33⟩

theorem regDump (x : Nibble) : Statement (.regDump x) :=
  ⟨⟨.regDump, 0xF055, 0xF0FF, 0xF0FF⟩, by decide, rfl, selects_x _ 0xF x 0x55⟩

theorem regLoad (x : Nibble) : Statement (.regLoad x) :=
  ⟨⟨.regLoad, 0xF065, 0xF0FF, 0xF0FF⟩, by decide, rfl, selects_x _ 0xF x 0x65⟩

end Sys2Proof.Laws.Encoding
end

