-- ==== Sys2Proof/Tests/Slice0.lean ====
section
/-!
SUPPORT. The model's own tests: the smoke test of the well-formedness check, every constructor's decoding
by a word written out from spec/30_encoding.md R73 (the tables DE1 to DE5 of spec/95_test_vectors.md),
at most two single steps per instruction from the vectors of 95_test_vectors.md, and witnesses that
the hypotheses of the statements can be met. Every expected result is the spec's.
-/

namespace Sys2Proof.Tests

open Sys2Proof Sys2Proof.Machine

/-! ### Helpers -/

/-- The next state of an outcome. -/
def nextOf : Host.Outcome State Fault Refusal → Option State
  | .next t => some t
  | .fault _ => none
  | .refused _ => none

/-- The reset state with a word where the next step fetches and some registers set. -/
def start (w : Nat) (regs : List (Nibble × Byte)) : State :=
  regs.foldl (fun s p => s.setReg p.1 p.2) (State.reset.withFetchWord 16 w)

/-- The state after one step. -/
def after (s : State) : Option State :=
  nextOf (step s)

/-- One step from `start`, looked at. -/
def look {α : Type} (w : Nat) (regs : List (Nibble × Byte)) (f : State → α) : Option α :=
  (after (start w regs)).map f

/-- A start state with the index register set and bytes stored from it on. -/
def startAt (w : Nat) (regs : List (Nibble × Byte)) (i : Word) (bytes : List Byte) : State :=
  let s := (start w regs).setIndex i
  { s with mem := loadBytes s.cfg i.toNat bytes s.mem }

/-- A start state with the program counter moved and the word placed there. -/
def startPc (w : Nat) (pc : Word) : State :=
  (State.reset.goto pc).withFetchWord 16 w

/-- A start state with some calls outstanding. -/
def startStack (w : Nat) (entries : List Word) : State :=
  entries.foldl (fun s a => match s.push a with | .ok t => t | .error _ => s)
    (State.reset.withFetchWord 16 w)

/-- The pixels that are on in a corner of the screen, row by row. -/
def lit (fb : Framebuffer) (cols rows : Nat) : List (Nat × Nat) :=
  (List.range rows).flatMap (fun py =>
    ((List.range cols).filter (fun px => fbPixel fb px py)).map (fun px => (px, py)))

/-! ### Well-formedness (30_encoding.md R84, R86): an ill-formed term for each check -/

theorem test_wf_register_16 :
    (Source.mk .move [16, 0]).wellFormed = false ∧ (Source.mk .move [0, 16]).wellFormed = false ∧
      assemble ⟨.move, [16, 0]⟩ = none := by decide

theorem test_wf_row_count_16 :
    (Source.mk .draw [0, 0, 16]).wellFormed = false ∧ assemble ⟨.draw, [0, 0, 16]⟩ = none := by decide

theorem test_wf_immediate_256 :
    (Source.mk .loadImm [0, 256]).wellFormed = false ∧ assemble ⟨.loadImm, [0, 256]⟩ = none := by
  decide

theorem test_wf_address_4096 :
    (Source.mk .jump [0x1000]).wellFormed = false ∧ assemble ⟨.jump, [0x1000]⟩ = none := by decide

theorem test_wf_operand_count :
    (Source.mk .ret [0]).wellFormed = false ∧ (Source.mk .call []).wellFormed = false ∧
      (Source.mk .add [1]).wellFormed = false ∧ (Source.mk .waitForKey [1, 2]).wellFormed = false := by
  decide

theorem test_wf_largest_operands :
    assemble ⟨.draw, [15, 15, 15]⟩ = some (.draw 15 15 15) ∧
      assemble ⟨.loadImm, [15, 255]⟩ = some (.loadImm 15 255) ∧
      assemble ⟨.jump, [0xFFF]⟩ = some (.jump 0xFFF) := by decide

/-! ### Decoding: one word per constructor, bit by bit (R73; DE1) -/

theorem test_decode_control_flow :
    decode false 0b0000000011101110#16 = .ok (.ret) ∧
    decode false 0b0001101010111100#16 = .ok (.jump 0xABC) ∧
    decode false 0b0010101010111100#16 = .ok (.call 0xABC) ∧
    decode false 0b1011101010111100#16 = .ok (.jumpIndexed 0xABC) := ⟨rfl, rfl, rfl, rfl⟩

theorem test_decode_skips :
    decode false 0b0011101010111100#16 = .ok (.skipEqImm 0xA 0xBC) ∧
    decode false 0b0100101010111100#16 = .ok (.skipNeImm 0xA 0xBC) ∧
    decode false 0b0101101010110000#16 = .ok (.skipEqReg 0xA 0xB) ∧
    decode false 0b1001101010110000#16 = .ok (.skipNeReg 0xA 0xB) := ⟨rfl, rfl, rfl, rfl⟩

theorem test_decode_arithmetic :
    decode false 0b0111101010111100#16 = .ok (.addImm 0xA 0xBC) ∧
    decode false 0b1000101010110100#16 = .ok (.add 0xA 0xB) ∧
    decode false 0b1000101010110101#16 = .ok (.sub 0xA 0xB) ∧
    decode false 0b1000101010110111#16 = .ok (.subRev 0xA 0xB) := ⟨rfl, rfl, rfl, rfl⟩

theorem test_decode_logic_and_shifts :
    decode false 0b1000101010110001#16 = .ok (.or 0xA 0xB) ∧
    decode false 0b1000101010110010#16 = .ok (.and 0xA 0xB) ∧
    decode false 0b1000101010110011#16 = .ok (.xor 0xA 0xB) ∧
    decode false 0b1000101010110110#16 = .ok (.shiftRight 0xA 0xB) ∧
    decode false 0b1000101010111110#16 = .ok (.shiftLeft 0xA 0xB) := ⟨rfl, rfl, rfl, rfl, rfl⟩

theorem test_decode_load_and_move :
    decode false 0b0110101010111100#16 = .ok (.loadImm 0xA 0xBC) ∧
    decode false 0b1000101010110000#16 = .ok (.move 0xA 0xB) ∧
    decode false 0b1100101010111100#16 = .ok (.loadRand 0xA 0xBC) := ⟨rfl, rfl, rfl⟩

theorem test_decode_index_and_memory :
    decode false 0b1010101010111100#16 = .ok (.loadIndex 0xABC) ∧
    decode false 0b1111101000011110#16 = .ok (.addIndex 0xA) ∧
    decode false 0b1111101000101001#16 = .ok (.loadFont 0xA) ∧
    decode false 0b1111101000110011#16 = .ok (.storeBCD 0xA) ∧
    decode false 0b1111101001010101#16 = .ok (.regDump 0xA) ∧
    decode false 0b1111101001100101#16 = .ok (.regLoad 0xA) := ⟨rfl, rfl, rfl, rfl, rfl, rfl⟩

theorem test_decode_drawing :
    decode false 0b0000000011100000#16 = .ok (.clearScreen) ∧
    decode false 0b1101101010111100#16 = .ok (.draw 0xA 0xB 0xC) := ⟨rfl, rfl⟩

theorem test_decode_keys_and_timers :
    decode false 0b1110101010011110#16 = .ok (.skipKeyPressed 0xA) ∧
    decode false 0b1110101010100001#16 = .ok (.skipKeyNotPressed 0xA) ∧
    decode false 0b1111101000001010#16 = .ok (.waitForKey 0xA) ∧
    decode false 0b1111101000000111#16 = .ok (.loadDelay 0xA) ∧
    decode false 0b1111101000010101#16 = .ok (.setDelay 0xA) ∧
    decode false 0b1111101000011000#16 = .ok (.setSound 0xA) := ⟨rfl, rfl, rfl, rfl, rfl, rfl⟩

/-- DE2: words that fail under both settings of DEC_STRICT. -/
theorem test_decode_failing_words :
    [0x0000, 0x00E1, 0x00EF, 0x00FE, 0x0123, 0x8AB8, 0x8AB9, 0x8ABA, 0x8ABD, 0x8ABF,
      0xE09F, 0xEA00, 0xEA9D, 0xEAA2, 0xF000,
      0xFA06, 0xFA1F, 0xFA30, 0xFA75, 0xFA85, 0xFAFF, 0xFFFF].all
      (fun w : Word => (decodeOption false w).isNone && (decodeOption true w).isNone) = true := by decide

/-- DE3: words whose fate depends on DEC_STRICT. -/
theorem test_decode_default_accepts :
    decode false 0x01E0 = .ok .clearScreen ∧ decode false 0x0FEE = .ok .ret ∧
      decode false 0x5AB1 = .ok (.skipEqReg 0xA 0xB) ∧
      decode false 0x9ABF = .ok (.skipNeReg 0xA 0xB) := ⟨rfl, rfl, rfl, rfl⟩

theorem test_decode_strict_rejects :
    decode true 0x01E0 = .error (.decodeFailure 0x01E0) ∧
      decode true 0x0FEE = .error (.decodeFailure 0x0FEE) ∧
      decode true 0x5AB1 = .error (.decodeFailure 0x5AB1) ∧
      decode true 0x9ABF = .error (.decodeFailure 0x9ABF) := ⟨rfl, rfl, rfl, rfl⟩

/-- DE5, with the byte order of R52: 0xDABC is stored as 0xDA, 0xBC. -/
theorem test_encode_examples :
    encode (.draw 0xA 0xB 0xC) = 0xDABC ∧ encode (.skipEqReg 1 2) = 0x5120 ∧
      encode .clearScreen = 0x00E0 ∧ encodeBytes (.draw 0xA 0xB 0xC) = [0xDA, 0xBC] := by decide

/-- R52, R81: two bytes are read, the first most significant, and the rest is left. -/
theorem test_decode_bytes :
    decodeBytes false [0x12, 0x34, 0x56] = .ok (.jump 0x234, [0x56]) ∧
      decodeBytes false [0x12] = .error .truncated := ⟨rfl, rfl⟩

theorem test_decode_table_word :
    decodeTableWord 16 0x00E0 = some .clearScreen ∧ decodeTableWord 16 0xD125 = some (.draw 1 2 5) ∧
      decodeTableWord 16 0x0123 = none := by decide

/-! ### Control flow (CF) -/

/-- CF3. -/
theorem test_jump_last_byte : look 0x1FFF [] (fun t => (t.pc, t.fault)) = some (0xFFF, none) := by decide

/-- CF5: the last free stack slot. -/
theorem test_call_last_slot :
    (after ((startStack 0 (List.replicate 15 0x200)).goto 0x2AA |>.withFetchWord 16 0x2300)).map
      (fun t => (t.stack[15], t.sp.val, t.pc)) = some (0x2AA, 16, 0x300) := by decide

/-- CF6: the full stack. -/
theorem test_call_overflow :
    (after (startStack 0x2300 (List.replicate 16 0x200))).map
      (fun t => (t.fault, t.sp.val, t.pc)) = some (some .stackOverflow, 16, 0x200) := by decide

/-- CF7: the slot keeps its content. -/
theorem test_return : (after (startStack 0x00EE [0x2AA])).map
    (fun t => (t.sp.val, t.pc, t.stack[0])) = some (0, 0x2AC, 0x2AA) := by decide

/-- CF8: the empty stack. -/
theorem test_return_underflow : look 0x00EE [] (fun t => (t.fault, t.sp.val, t.pc)) =
    some (some .stackUnderflow, 0, 0x200) := by decide

/-- CF12: no reduction to 12 bits. -/
theorem test_jump_indexed_past_memory : look 0xBFFF [(0, 0xFF)] (fun t => (t.pc, t.fault)) =
    some (0x10FE, none) := by decide

/-- R103: always V0, never the register the x nibble names. -/
theorem test_jump_indexed_adds_v0 : look 0xB300 [(0, 0x10), (3, 0x7F)] State.pc = some 0x310 := by
  decide

/-! ### Skips (SK) -/

/-- SK1, SK2. -/
theorem test_skip_eq_imm : look 0x3A42 [(10, 0x42)] State.pc = some 0x204 ∧
    look 0x3A42 [(10, 0x43)] State.pc = some 0x202 := by decide

/-- SK13: past the end of memory, no fault yet. -/
theorem test_skip_at_end_of_memory : (after (startPc 0x3000 0xFFE)).map
    (fun t => (t.pc, t.fault)) = some (0x1002, none) := by decide

/-- SK3, SK4. -/
theorem test_skip_ne_imm : look 0x4A42 [(10, 0x42)] State.pc = some 0x202 ∧
    look 0x4A42 [(10, 0x43)] State.pc = some 0x204 := by decide

/-- SK5, SK6. -/
theorem test_skip_eq_reg : look 0x5120 [(1, 7), (2, 7)] State.pc = some 0x204 ∧
    look 0x5120 [(1, 7), (2, 8)] State.pc = some 0x202 := by decide

/-- SK11: the non-canonical word under the default DEC_STRICT. -/
theorem test_skip_eq_reg_noncanonical : look 0x5127 [(1, 7), (2, 7)] State.pc = some 0x204 := by decide

/-- SK8, SK9. -/
theorem test_skip_ne_reg : look 0x9120 [(1, 7), (2, 7)] State.pc = some 0x202 ∧
    look 0x9120 [(1, 7), (2, 8)] State.pc = some 0x204 := by decide

/-! ### Arithmetic and logic (AL): Vx, VF and PC after the step -/

/-- AL1 (S1). -/
theorem test_add_carry : look 0x8124 [(1, 250), (2, 10)]
    (fun t => (t.reg 1, t.reg 15, t.pc)) = some (4, 1, 0x202) := by decide

/-- AL6: the sum overwrites the flag. -/
theorem test_add_into_vf : look 0x8F14 [(15, 200), (1, 100)]
    (fun t => (t.reg 15, t.reg 15, t.pc)) = some (0x2C, 0x2C, 0x202) := by decide

/-- AL9. -/
theorem test_add_imm_no_flag : look 0x71FF [(1, 2), (15, 7)]
    (fun t => (t.reg 1, t.reg 15, t.pc)) = some (1, 7, 0x202) := by decide

/-- AL15: not strictly greater. -/
theorem test_sub_equal : look 0x8125 [(1, 7), (2, 7), (15, 1)]
    (fun t => (t.reg 1, t.reg 15, t.pc)) = some (0, 0, 0x202) := by decide

/-- AL20: the old VF is the operand. -/
theorem test_sub_from_vf : look 0x81F5 [(1, 9), (15, 4)]
    (fun t => (t.reg 1, t.reg 15, t.pc)) = some (5, 1, 0x202) := by decide

/-- AL22. -/
theorem test_sub_rev : look 0x8127 [(1, 5), (2, 3)]
    (fun t => (t.reg 1, t.reg 15, t.pc)) = some (254, 0, 0x202) := by decide

/-- AL25. -/
theorem test_sub_rev_into_vf : look 0x8F17 [(15, 4), (1, 9)]
    (fun t => (t.reg 15, t.reg 15, t.pc)) = some (5, 5, 0x202) := by decide

/-- AL26. -/
theorem test_or_keeps_vf : look 0x8121 [(1, 0xF0), (2, 0x0F), (15, 0x55)]
    (fun t => (t.reg 1, t.reg 15, t.pc)) = some (0xFF, 0x55, 0x202) := by decide

/-- AL27. -/
theorem test_and_keeps_vf : look 0x8122 [(1, 0xF0), (2, 0x3C), (15, 0x55)]
    (fun t => (t.reg 1, t.reg 15, t.pc)) = some (0x30, 0x55, 0x202) := by decide

/-- AL28. -/
theorem test_xor_keeps_vf : look 0x8123 [(1, 0xF0), (2, 0x3C), (15, 0x55)]
    (fun t => (t.reg 1, t.reg 15, t.pc)) = some (0xCC, 0x55, 0x202) := by decide

/-- AL32. -/
theorem test_shift_right_ignores_vy : look 0x8126 [(1, 5), (2, 0xFF)]
    (fun t => (t.reg 1, t.reg 15, t.pc)) = some (2, 1, 0x202) := by decide

/-- AL37. -/
theorem test_shift_right_vf : look 0x8F26 [(15, 3)]
    (fun t => (t.reg 15, t.reg 15, t.pc)) = some (1, 1, 0x202) := by decide

/-- AL39 (S13): 0x80, not 1. -/
theorem test_shift_left_raw_flag : look 0x812E [(1, 0x81), (2, 0xFF)]
    (fun t => (t.reg 1, t.reg 15, t.pc)) = some (0x02, 0x80, 0x202) := by decide

/-- AL39 with SHL_FLAG_MASK = 0xFF. -/
theorem test_shift_left_other_mask :
    (nextOf (exec (.shiftLeft 1 2) { (State.reset.setReg 1 0x81) with
      cfg := { defaultConfig with shlFlagMask := 0xFF } })).map (fun t => t.reg 15) = some 0x81 := by
  decide

/-! ### Load, move, random (LM) -/

/-- LM1. -/
theorem test_load_imm : look 0x6A42 [] (fun t => (t.reg 10, t.pc)) = some (0x42, 0x202) := by decide

/-- LM3. -/
theorem test_move : look 0x8120 [(2, 0x99)] (fun t => (t.reg 1, t.reg 2)) = some (0x99, 0x99) := by
  decide

/-- LM8 with a second byte behind: the mask 0 gives 0, and one byte is drawn all the same. -/
theorem test_load_rand_draws :
    (after ((start 0xC300 [(3, 9)]).supplyRandom [0xB7, 0x11])).map
      (fun t => (t.reg 3, t.random, t.draws, t.pc)) = some (0, [0x11], 1, 0x202) := by decide

/-- LM7, LM9, LM10: RandomByte gives 0xB7, supplied at the input or as the step's argument. -/
theorem test_load_rand_masks :
    (after ((start 0xC30F []).supplyRandom [0xB7])).map (fun t => t.reg 3) = some 0x07 ∧
      (nextOf (stepWith 0xB7 (start 0xC3FF []))).map (fun t => t.reg 3) = some 0xB7 ∧
      (nextOf (stepWith 0xB7 (start 0xCFF0 []))).map (fun t => t.reg 15) = some 0xB0 := by decide

/-! ### Index register and memory (MI) -/

/-- MI2. -/
theorem test_load_index : look 0xAFFF [] (fun t => (t.index, t.pc)) = some (0xFFF, 0x202) := by decide

/-- MI5: no fault and no flag past 0xFFF. -/
theorem test_add_index_past_4095 : (after (startAt 0xF11E [(1, 1)] 0xFFF [])).map
    (fun t => (t.index, t.reg 15, t.fault)) = some (0x1000, 0, none) := by decide

/-- MI7. -/
theorem test_add_index_overflow : (after (startAt 0xF11E [(1, 0xFF)] 0xFF01 [])).map
    (fun t => (t.index, t.pc, t.fault)) = some (0xFF01, 0x200, some .indexOverflow) := by decide

/-- MI10. -/
theorem test_load_font : look 0xF229 [(2, 0x0A)] (fun t => (t.index, t.pc)) = some (0x32, 0x202) := by
  decide

/-- MI14: the whole register value. -/
theorem test_load_font_unmasked : look 0xF229 [(2, 0xFF)] State.index = some 0x4FB := by decide

/-- MI20: the last three bytes of memory. -/
theorem test_bcd_end_of_memory : (after (startAt 0xF333 [(3, 123)] 4093 [])).map
    (fun t => (t.peek 4093, t.peek 4094, t.peek 4095, t.pc)) = some (1, 2, 3, 0x202) := by decide

/-- MI21: nothing is written. -/
theorem test_bcd_out_of_range : (after (startAt 0xF333 [(3, 123)] 4094 [])).map
    (fun t => (t.peek 4094, t.peek 4095, t.fault, t.pc)) =
      some (0, 0, some (.outOfRange .mem 4096), 0x200) := by decide

/-- MI24: inclusive of Vx, not beyond; I unchanged. -/
theorem test_reg_dump : (after (startAt 0xF255 [(0, 1), (1, 2), (2, 3), (3, 4)] 0x400 [])).map
    (fun t => (t.peek 0x400, t.peek 0x401, t.peek 0x402, t.peek 0x403, t.index)) =
      some (1, 2, 3, 0, 0x400) := by decide

/-- MI26. -/
theorem test_reg_dump_out_of_range : (after (startAt 0xF155 [(0, 0xAB), (1, 0xCD)] 0xFFF [])).map
    (fun t => (t.peek 0xFFF, t.fault)) = some (0, some (.outOfRange .mem 4096)) := by decide

/-- MI29. -/
theorem test_reg_load : (after (startAt 0xF265 [(3, 0x77)] 0x400 [1, 2, 3, 4])).map
    (fun t => (t.reg 0, t.reg 1, t.reg 2, t.reg 3, t.index)) = some (1, 2, 3, 0x77, 0x400) := by decide

/-- MI32: font bytes (the default FONT is log 3). -/
theorem test_reg_load_font : (after (startAt 0xFF65 [] 0 [])).map
    (fun t => (t.reg 0, t.reg 1, t.reg 5, t.reg 6, t.reg 15)) =
      some (0xF0, 0x90, 0x20, 0x60, 0xF0) := by decide

/-! ### Drawing (DR) -/

/-- DR4: the second row wraps to the top. -/
theorem test_draw_wraps : (after (startAt 0xD012 [(1, 31)] 0x300 [0x80, 0x01])).map
    (fun t => (fbPixel t.fb 0 31, fbPixel t.fb 7 0, fbPixel t.fb 7 31, t.reg 15)) =
      some (true, true, false, 0) := by decide

/-- DR14: a collision. -/
theorem test_draw_collision :
    (after (let s := startAt 0xD011 [] 0x300 [0xC0]; s.setFb (fbSet s.fb 0 0 true))).map
      (fun t => (lit t.fb 3 2, t.reg 15)) = some ([(1, 0)], 1) := by decide

/-- DR15: VF is not written. -/
theorem test_clear_screen :
    (after (let s := start 0x00E0 [(15, 1)]; s.setFb (fbSet (fbSet s.fb 0 0 true) 63 31 true))).map
      (fun t => (fbPixel t.fb 0 0, fbPixel t.fb 63 31, t.reg 15)) = some (false, false, 1) := by decide

/-! ### Keyboard and timers (KT) -/

/-- KT1, KT2. -/
theorem test_skip_key_pressed :
    (after ((start 0xE49E [(4, 0x0A)]).setKey 10 true)).map State.pc = some 0x204 ∧
      look 0xE49E [(4, 0x0A)] State.pc = some 0x202 := by decide

/-- KT5. -/
theorem test_skip_key_pressed_16 : look 0xE49E [(4, 0x10)] (fun t => (t.fault, t.pc)) =
    some (some (.outOfRange .key 16), 0x200) := by decide

/-- KT3, KT4. -/
theorem test_skip_key_not_pressed : look 0xE4A1 [(4, 0x0A)] State.pc = some 0x204 ∧
    (after ((start 0xE4A1 [(4, 0x0A)]).setKey 10 true)).map State.pc = some 0x202 := by decide

/-- KT6. -/
theorem test_skip_key_not_pressed_255 : look 0xE4A1 [(4, 0xFF)] (fun t => (t.fault, t.pc)) =
    some (some (.outOfRange .key 255), 0x200) := by decide

/-- KT11: a key already held does not satisfy the wait. -/
theorem test_wait_for_key : (after ((start 0xF30A []).setKey 3 true)).map
    (fun t => (t.wait, t.pc, t.reg 3)) = some (some 3, 0x202, 0) := by decide

/-- KT12: the ticked value is loaded. -/
theorem test_load_delay : (after ((start 0xF507 []).setDelay 9)).map
    (fun t => (t.dt, t.reg 5, t.pc)) = some (8, 8, 0x202) := by decide

/-- KT15, KT16. -/
theorem test_set_delay : look 0xF515 [(5, 0x3C)] State.dt = some 60 ∧
    (after ((start 0xF515 []).setDelay 9)).map State.dt = some 0 := by decide

/-- KT18: the tick comes first. -/
theorem test_set_sound : (after (((start 0xF518 [(5, 0xFF)]).setSound 3).setDelay 3)).map
    (fun t => (t.dt, t.st, t.pc)) = some (2, 255, 0x202) := by decide

/-! ### Controller and host interface (CT, S7, S11) -/

/-- CT1: reset with an empty image, one step. -/
theorem test_step_from_reset : (after State.reset).map (fun t => (t.fault, t.pc)) =
    some (some (.decodeFailure 0), 0x200) := by decide

/-- CT3, CT4: the fetch past the end of memory. -/
theorem test_fetch_out_of_range :
    (after (State.reset.goto 0xFFF)).map State.fault = some (some (.outOfRange .mem 4096)) ∧
      (after (State.reset.goto 0x1000)).map State.fault = some (some (.outOfRange .mem 4096)) := by
  decide

/-- CT5: the last word of memory is fetchable. -/
theorem test_fetch_last_word : (after (startPc 0x1200 0xFFE)).map State.pc = some 0x200 := by decide

/-- CT6: the tick of the faulting step stands. -/
theorem test_fault_after_tick : (after ((State.reset.setDelay 3).setSound 1)).map
    (fun t => (t.dt, t.st, t.fault)) = some (2, 0, some (.decodeFailure 0)) := by decide

/-- CT7, its first step: a blocked step ticks and stays. -/
theorem test_blocked_step : (after ((State.reset.setWait (some 3)).setDelay 2)).map
    (fun t => (t.dt, t.pc, t.wait, t.fault)) = some (1, 0x200, some 3, none) := by decide

/-- S7, CT10: the press delivers the key and ends the wait. -/
theorem test_key_press_delivers : (nextOf (keyPress 7 (State.reset.setWait (some 3)))).map
    (fun t => (t.reg 3, t.key 7, t.wait, t.pc)) = some (7, true, none, 0x200) := by decide

/-- CT8: a release does not end the wait. -/
theorem test_key_release_keeps_wait :
    (nextOf (keyRelease 4 ((State.reset.setWait (some 3)).setKey 4 true))).map
      (fun t => (t.key 4, t.wait, t.reg 3)) = some (false, some 3, 0) := by decide

/-- S11: 1/60 s, 0.016 s, 0.0008 s, 0.001 s, 0.0025 s and 1 s as binary64 values. -/
theorem test_step_count :
    stepCount 0x3F91111111111111 = some 10 ∧ stepCount 0x3F90624DD2F1A9FC = some 10 ∧
      stepCount 0x3F4A36E2EB1C432D = some 0 ∧ stepCount 0x3F50624DD2F1A9FC = some 1 ∧
      stepCount 0x3F647AE147AE147B = some 2 ∧ stepCount 0x3FF0000000000000 = some 600 := by decide

/-- S11: 0 s. -/
theorem test_step_count_zero : stepCount 0 = some 0 ∧ stepCount 0x8000000000000000 = some 0 := by
  decide +kernel

/-- U12: minus one, infinity and not-a-number are outside the domain. -/
theorem test_step_count_domain :
    stepCount 0xBFF0000000000000 = none ∧ stepCount 0x7FF0000000000000 = none ∧
      stepCount 0x7FF8000000000000 = none := by decide

/-- R230: the image of vector S7 (its second word from 0x202), loaded from 0x200. -/
theorem test_construct : (nextOf (construct defaultConfig [0xF3, 0x0A, 0x64, 0x01])).map
    (fun t => (t.peek 0x200, t.peek 0x201, t.peek 0x202, t.peek 0x203, t.peek 0x204, t.pc)) =
      some (0xF3, 0x0A, 0x64, 0x01, 0, 0x200) := by decide

/-! ### Witnesses: states and operands that meet the hypotheses of the statements

One theorem per statement that has hypotheses, named after it, with the boundary values of its
clauses. -/

/-- The reset state with a word where the next step fetches. -/
def ready (w : Nat) : State :=
  start w []

/-- A machine halted by a fault. -/
def halted : State :=
  State.reset.latch .stackOverflow

/-- A machine waiting for a key, its timers running. -/
def waiting : State :=
  ((State.reset.setWait (some 3)).setDelay 5).setSound 1

theorem ready_fetchable (w : Nat) : (ready w).Fetchable := by
  show (0x200 : Word).toNat + 1 ≤ 4095
  decide

theorem reset_fetchable : State.reset.Fetchable := by
  unfold State.Fetchable
  decide

theorem reset_memOk : State.reset.MemOk := rfl

theorem reset_inv : State.reset.Inv :=
  ⟨by decide, by decide, by decide, rfl⟩

theorem witness_EncodeOfDecode :
    decode false 0xDABC = .ok (.draw 0xA 0xB 0xC) ∧ CanonicalWord 0xDABC ∧
      decode true 0x9AB0 = .ok (.skipNeReg 0xA 0xB) :=
  ⟨rfl, by unfold CanonicalWord; decide, rfl⟩

theorem witness_DecodeSelectsOneRow :
    decode true 0x5AB0 = .ok (.skipEqReg 0xA 0xB) ∧ (⟨.skipEqReg, 0x5000, 0xF000, 0xF00F⟩ : Row) ∈ opcodeRows ∧
      (⟨.skipEqReg, 0x5000, 0xF000, 0xF00F⟩ : Row).selects true 0x5AB0 = true := by
  refine ⟨rfl, by decide, by decide⟩

/-- A word of each clause of the table, and beside it one that decodes. -/
theorem witness_FailingWords :
    [0x00E1, 0x8AB8, 0x8ABF, 0xEA9F, 0xFA06].all (fun w : Word => (decodeOption false w).isNone) = true ∧
      [0x00E0, 0x8AB7, 0x8ABE, 0xEA9E, 0xFA07].all (fun w : Word => (decodeOption false w).isSome) = true := by
  decide

theorem witness_StrictDecoding :
    CanonicalWord 0x5AB0 ∧ ¬CanonicalWord 0x5AB1 ∧ ¬CanonicalWord 0x9ABF ∧ ¬CanonicalWord 0x01E0 := by
  unfold CanonicalWord
  decide

theorem witness_AssemblyChecksRanges :
    (Source.mk .draw [15, 15, 15]).wellFormed = true ∧ (Source.mk .draw [15, 15, 16]).wellFormed = false := by
  decide

theorem witness_FetchBigEndianOrOutOfRange :
    (State.reset.goto 4094).Fetchable ∧ (State.reset.goto 4095).pc.toNat = 4095 ∧
      4096 ≤ (State.reset.goto 4096).pc.toNat ∧ State.reset.fault = none ∧ State.reset.wait = none := by
  unfold State.Fetchable
  decide

theorem witness_StepRunsDecodedInstruction : (ready 0x8124).Executes (.add 1 2) :=
  ⟨rfl, rfl, ready_fetchable _, rfl⟩

theorem witness_TickOpensEveryStep_setDelay : (ready 0xF515).Executes (.setDelay 5) :=
  ⟨rfl, rfl, ready_fetchable _, rfl⟩

theorem witness_TickOpensEveryStep_setSound : (ready 0xF518).Executes (.setSound 5) :=
  ⟨rfl, rfl, ready_fetchable _, rfl⟩

theorem witness_TickOpensEveryStep_loadDelay : (ready 0xF507).Executes (.loadDelay 5) :=
  ⟨rfl, rfl, ready_fetchable _, rfl⟩

theorem witness_TickOpensEveryStep_other :
    waiting.fault = none ∧ (∃ t, step waiting = .next t) ∧
      (∀ x, ¬waiting.Executes (.setDelay x)) ∧ (∀ x, ¬waiting.Executes (.setSound x)) :=
  ⟨rfl, ⟨_, rfl⟩, fun _ h => absurd h.unblocked (by decide), fun _ h => absurd h.unblocked (by decide)⟩

theorem witness_BlockedStepsOnlyTick : waiting.fault = none ∧ waiting.wait = some 3 := by decide

theorem witness_BlockedStepsOnlyTick_executes : (ready 0xF30A).Executes (.waitForKey 3) :=
  ⟨rfl, rfl, ready_fetchable _, rfl⟩

theorem witness_BlockedStepsOnlyTick_unblocked :
    ∃ t, performMove (.keyPress 7) waiting = .next t ∧ t.wait ≠ some 3 :=
  ⟨_, rfl, by decide⟩

theorem witness_DecodeFailureStep :
    State.reset.fault = none ∧ State.reset.wait = none ∧ State.reset.Fetchable ∧
      decode State.reset.cfg.decStrict State.reset.wordAtPc = .error (.decodeFailure State.reset.wordAtPc) :=
  ⟨rfl, rfl, reset_fetchable, rfl⟩

/-- Each row of the table where it starts to fault and where it does not yet. -/
theorem witness_FaultTable :
    faultOf (.call 0) (startStack 0 (List.replicate 16 0)) = some .stackOverflow ∧
      faultOf (.call 0) (startStack 0 (List.replicate 15 0)) = none ∧
      faultOf .ret State.reset = some .stackUnderflow ∧ faultOf .ret (startStack 0 [0x200]) = none ∧
      faultOf (.addIndex 1) ((State.reset.setIndex 0xFF01).setReg 1 0xFF) = some .indexOverflow ∧
      faultOf (.addIndex 1) ((State.reset.setIndex 0xFF01).setReg 1 0xFE) = none := by decide

theorem witness_FaultTable_memory :
    faultOf (.storeBCD 0) (State.reset.setIndex 4094) = some (.outOfRange .mem 4096) ∧
      faultOf (.storeBCD 0) (State.reset.setIndex 4093) = none ∧
      faultOf (.regDump 15) (State.reset.setIndex 4081) = some (.outOfRange .mem 4096) ∧
      faultOf (.regLoad 15) (State.reset.setIndex 4080) = none ∧
      faultOf (.draw 0 0 1) (State.reset.setIndex 0xFFFF) = some (.outOfRange .mem 65535) ∧
      faultOf (.draw 0 0 0) (State.reset.setIndex 0xFFFF) = none := by decide

theorem witness_FaultTable_keys :
    faultOf (.skipKeyPressed 4) (State.reset.setReg 4 16) = some (.outOfRange .key 16) ∧
      faultOf (.skipKeyNotPressed 4) (State.reset.setReg 4 15) = none := by decide

theorem witness_FaultsArePrecise :
    State.reset.fault = none ∧ ∃ t, step State.reset = .next t ∧ t.fault = some (.decodeFailure 0) :=
  ⟨rfl, _, rfl, rfl⟩

theorem witness_HaltedMachineStandsStill :
    halted.fault ≠ none ∧ halted.Inv ∧ (∃ t, keyPress 2 halted = .next t) ∧
      ∃ t, keyRelease 15 halted = .next t :=
  ⟨by decide, ⟨by decide, by decide, by decide, rfl⟩, ⟨_, rfl⟩, _, rfl⟩

/-- An instruction that completes, and one that faults. -/
theorem witness_NextPcValues :
    State.reset.Inv ∧ State.reset.Fetchable ∧ State.reset.fault = none ∧
      (∃ t, exec (.addImm 1 1) State.reset = .next t ∧ t.fault = none) ∧
      ∃ t, exec .ret State.reset = .next t ∧ t.fault ≠ none :=
  ⟨reset_inv, reset_fetchable, rfl, ⟨_, rfl, rfl⟩, _, rfl, by decide⟩

/-- The largest return address the invariant allows (CF9). -/
theorem witness_NextPcValues_ret :
    (startStack 0x00EE [4094]).Inv ∧ (startStack 0x00EE [4094]).Fetchable ∧
      ∃ t, exec .ret (startStack 0x00EE [4094]) = .next t ∧ t.fault = none ∧ t.pc = 0x1000 :=
  ⟨⟨by decide, by decide, by decide, rfl⟩, by unfold State.Fetchable; decide, _, rfl, rfl, rfl⟩

/-- A running machine, and one at the largest PC. -/
theorem witness_StepKeepsInvariant :
    State.reset.Inv ∧ (∃ t, step State.reset = .next t) ∧
      (State.reset.goto 0x10FE).Inv ∧ ∃ t, step (State.reset.goto 0x10FE) = .next t :=
  ⟨reset_inv, ⟨_, rfl⟩, ⟨by decide, by decide, by decide, rfl⟩, _, rfl⟩

theorem witness_HistoriesKeepInvariant :
    defaultConfig.pcReset.toNat ≤ 0x10FE ∧
      ∃ s, construct defaultConfig [0x12, 0x00] = .next s ∧
        ∃ t, performMoves [.runCycle 1, .keyPress 3, .readFramebuffer, .keyRelease 3] s = .next t :=
  ⟨by decide, _, rfl, _, rfl⟩

theorem witness_HistoriesKeepInvariant_move :
    State.reset.Inv ∧ ∃ t, performMove (.keyPress 15) State.reset = .next t :=
  ⟨reset_inv, _, rfl⟩

/-- The last byte of memory, and two ways to one memory. -/
theorem witness_MemoryReadsLastWrite :
    State.reset.MemOk ∧ 4095 ≤ 4095 ∧ (State.reset.poke 4095 7).MemOk ∧
      ((State.reset.poke 4095 7).poke 4095 0).MemOk ∧
      ((State.reset.poke 4095 7).poke 4095 0).mem = State.reset.mem :=
  ⟨rfl, Nat.le_refl _, rfl, rfl, rfl⟩

theorem witness_PlacedWordIsExecuted : State.reset.MemOk ∧ (State.reset.goto 4094).Fetchable :=
  ⟨rfl, by unfold State.Fetchable; decide⟩

theorem witness_InstructionsWriteOnlyTheirParts : ∃ t, exec (.regDump 2) State.reset = .next t :=
  ⟨_, rfl⟩

theorem witness_RegistersWrittenOnlyAsNamed :
    (∃ t, exec (.addImm 1 1) State.reset = .next t) ∧ ¬mayWriteReg 15 (.addImm 1 1) ∧
      ¬mayWriteReg 3 (.regLoad 2) ∧ ¬mayWriteReg 0 (.draw 0 1 5) := by
  refine ⟨⟨_, rfl⟩, ?_, ?_, ?_⟩ <;> unfold mayWriteReg <;> decide

theorem witness_BatchKeepsKeysAndWait :
    (∃ t, runCycle 2 waiting = .next t) ∧ waiting.wait = some 3 :=
  ⟨⟨_, rfl⟩, rfl⟩

/-- Two machines that differ in a dead entry. -/
theorem witness_DeadStackEntriesAreUnobservable :
    SameButDeadEntries State.reset { State.reset with stack := State.reset.stack.set 0 7 } ∧
      State.reset ≠ { State.reset with stack := State.reset.stack.set 0 7 } :=
  ⟨⟨rfl, by decide⟩, by decide⟩

/-- The first and the last slot. -/
theorem witness_CallResult :
    (0 : Fin 16).val = State.reset.sp.val ∧
      (15 : Fin 16).val = (startStack 0 (List.replicate 15 0x200)).sp.val := by decide

theorem witness_StackFaults :
    State.reset.fault = none ∧ State.reset.sp.val = 0 ∧
      (startStack 0 (List.replicate 16 0x200)).fault = none ∧
      (startStack 0 (List.replicate 16 0x200)).sp.val = 16 := by decide

/-- One entry, and all sixteen. -/
theorem witness_ReturnResult :
    (startStack 0 [0x200]).Inv ∧ (0 : Fin 16).val + 1 = (startStack 0 [0x200]).sp.val ∧
      (startStack 0 (List.replicate 16 4094)).Inv ∧
      (15 : Fin 16).val + 1 = (startStack 0 (List.replicate 16 4094)).sp.val :=
  ⟨⟨by decide, by decide, by decide, rfl⟩, by decide, ⟨by decide, by decide, by decide, rfl⟩, by decide⟩

/-- Both outcomes of the comparison, at the last fetchable address. -/
theorem witness_SkipImmediateResult :
    (State.reset.goto 4094).Fetchable ∧ (State.reset.goto 4094).reg 0 = 0 ∧
      (State.reset.goto 4094).reg 0 ≠ 1 := by
  unfold State.Fetchable
  decide

theorem witness_SkipRegisterResult :
    (State.reset.setReg 1 7).Fetchable ∧ (State.reset.setReg 1 7).reg 1 ≠ (State.reset.setReg 1 7).reg 2 ∧
      (State.reset.setReg 1 7).reg 1 = (State.reset.setReg 1 7).reg 1 := by
  unfold State.Fetchable
  decide

/-- Sums 255 and 256. -/
theorem witness_AddResult :
    ((State.reset.setReg 1 255).setReg 2 1).Fetchable ∧
      (((State.reset.setReg 1 255).setReg 2 1).reg 1).toNat +
        (((State.reset.setReg 1 255).setReg 2 1).reg 2).toNat = 256 ∧
      (((State.reset.setReg 1 255).setReg 2 1).reg 1).toNat +
        (((State.reset.setReg 1 255).setReg 2 1).reg 3).toNat = 255 := by
  unfold State.Fetchable
  decide

theorem witness_AddImmediateResult : (State.reset.setReg 2 0xFF).Fetchable := by
  unfold State.Fetchable
  decide

/-- A difference of one, and equal operands. -/
theorem witness_SubtractResults :
    (State.reset.setReg 1 1).Fetchable ∧ ((State.reset.setReg 1 1).reg 1).toNat > 0 ∧
      (State.reset.setReg 1 1).reg 2 = (State.reset.setReg 1 1).reg 3 := by
  unfold State.Fetchable
  decide

theorem witness_LogicResults : (State.reset.setReg 1 0xF0).Fetchable := by
  unfold State.Fetchable
  decide

theorem witness_ShiftRightResult : (State.reset.setReg 1 1).Fetchable := by
  unfold State.Fetchable
  decide

/-- Values 128 and 127 under the default mask. -/
theorem witness_ShiftLeftResult :
    ((State.reset.setReg 1 128).setReg 2 127).Fetchable ∧ State.reset.cfg.shlFlagMask = 0x80 ∧
      (((State.reset.setReg 1 128).setReg 2 127).reg 1).toNat ≥ 128 ∧
      ¬(((State.reset.setReg 1 128).setReg 2 127).reg 2).toNat ≥ 128 := by
  unfold State.Fetchable
  decide

theorem witness_LoadAndMoveResults : (State.reset.setReg 2 0x99).Fetchable := by
  unfold State.Fetchable
  decide

/-- A byte supplied, and none. -/
theorem witness_LoadRandResult :
    ((ready 0xC300).supplyRandom [0xB7]).Fetchable ∧
      ((ready 0xC300).supplyRandom [0xB7]).random = 0xB7 :: [] ∧
      (ready 0xC300).Fetchable ∧ (ready 0xC300).random = [] :=
  ⟨ready_fetchable _, rfl, ready_fetchable _, rfl⟩

/-- A step that draws, the machine's input holding two bytes. -/
theorem witness_InjectedBytesAreDrawnInOrder :
    ((ready 0xC30F).supplyRandom [0xB7, 0x11]).Executes (.loadRand 3 0x0F) ∧
      ((ready 0xC30F).supplyRandom [0xB7, 0x11]).random = 0xB7 :: [0x11] :=
  ⟨⟨rfl, rfl, ready_fetchable _, rfl⟩, rfl⟩

/-- A step that does not draw, and a batch. -/
theorem witness_InjectedBytesAreDrawnInOrder_other :
    (∀ x nn, ¬waiting.Executes (.loadRand x nn)) ∧
      ∃ t, runCycle 1 ((ready 0xC30F).supplyRandom [0xB7, 0x11]) = .next t :=
  ⟨fun _ _ h => absurd h.unblocked (by decide), _, rfl⟩

theorem witness_LoadIndexResult : (ready 0xAFFF).Fetchable :=
  ready_fetchable _

/-- Sums 0xFFFF and 0x10000. -/
theorem witness_AddIndexResult :
    let s := ((State.reset.setIndex 0xFF01).setReg 1 0xFE).setReg 2 0xFF
    s.Fetchable ∧ s.fault = none ∧ s.index.toNat + (s.reg 1).toNat ≤ 0xFFFF ∧
      s.index.toNat + (s.reg 2).toNat > 0xFFFF := by
  unfold State.Fetchable
  decide

theorem witness_LoadFontResult : (State.reset.setReg 2 0xFF).Fetchable := by
  unfold State.Fetchable
  decide

/-- The last three bytes of memory. -/
theorem witness_StoreBcdResult :
    (State.reset.setIndex 4093).MemOk ∧ (State.reset.setIndex 4093).Fetchable ∧
      (State.reset.setIndex 4093).index.toNat + 2 ≤ 4095 :=
  ⟨rfl, reset_fetchable, by decide⟩

/-- The last sixteen bytes of memory. -/
theorem witness_RegDumpResult :
    (State.reset.setIndex 4080).MemOk ∧ (State.reset.setIndex 4080).Fetchable ∧
      (State.reset.setIndex 4080).index.toNat + (15 : Nibble).toNat ≤ 4095 :=
  ⟨rfl, reset_fetchable, by decide⟩

theorem witness_RegLoadResult :
    (State.reset.setIndex 4095).Fetchable ∧
      (State.reset.setIndex 4095).index.toNat + (0 : Nibble).toNat ≤ 4095 :=
  ⟨reset_fetchable, by decide⟩

theorem witness_DumpLoadRoundTrip :
    (State.reset.setIndex 4080).MemOk ∧
      (State.reset.setIndex 4080).index.toNat + (15 : Nibble).toNat ≤ 4095 ∧
      ∃ t, exec (.regDump 15) (State.reset.setIndex 4080) = .next t :=
  ⟨rfl, by decide, _, rfl⟩

/-- No sprite byte past the end of memory, and one at its last address. -/
theorem witness_DrawResult :
    (State.reset.setIndex 0xFFFF).Fetchable ∧ (0 : Nibble) = 0 ∧
      (State.reset.setIndex 4095).Fetchable ∧
      (State.reset.setIndex 4095).index.toNat + (1 : Nibble).toNat - 1 ≤ 4095 :=
  ⟨reset_fetchable, rfl, reset_fetchable, by decide⟩

/-- A covered pixel that is on (a collision), one that is off, and a pixel that is not covered. -/
theorem witness_DrawResult_covers :
    SpriteCovers 0 0 1 (State.reset.setFb (fbSet State.reset.fb 0 0 true)) 0 0 ∧
      fbPixel (State.reset.setFb (fbSet State.reset.fb 0 0 true)).fb 0 0 = true ∧
      SpriteCovers 0 0 1 State.reset 3 0 ∧ fbPixel State.reset.fb 3 0 = false ∧
      ¬SpriteCovers 0 0 1 State.reset 0 1 := by
  refine ⟨⟨0, 0, by decide, by decide, by decide, by decide, by decide⟩, by decide,
    ⟨0, 3, by decide, by decide, by decide, by decide, by decide⟩, by decide, ?_⟩
  rintro ⟨row, col, h1, -, -, h2, -⟩
  have h1 : row < 1 := h1
  obtain rfl : row = 0 := by omega
  exact absurd h2 (by decide)

theorem witness_DrawTwiceRestores :
    (0 : Nibble) ≠ 0xF ∧ (1 : Nibble) ≠ 0xF ∧ State.reset.index.toNat + (1 : Nibble).toNat - 1 ≤ 4095 ∧
      ∃ t, exec (.draw 0 1 1) State.reset = .next t ∧ ∃ u, exec (.draw 0 1 1) t = .next u :=
  ⟨by decide, by decide, by decide, _, rfl, _, rfl⟩

theorem witness_ClearScreenResult : (ready 0x00E0).Fetchable :=
  ready_fetchable _

/-- Key numbers 15 and 16. -/
theorem witness_KeySkipResults :
    (State.reset.setReg 4 15).Fetchable ∧ ((State.reset.setReg 4 15).reg 4).toNat = (15 : Fin 16).val ∧
      (State.reset.setReg 4 16).fault = none ∧ 15 < ((State.reset.setReg 4 16).reg 4).toNat :=
  ⟨reset_fetchable, by decide, rfl, by decide⟩

theorem witness_WaitForKeyResult : (ready 0xF30A).Fetchable ∧ 15 ≤ 15 :=
  ⟨ready_fetchable _, Nat.le_refl _⟩

theorem witness_TimerInstructionResults : (ready 0xF507).Fetchable :=
  ready_fetchable _

theorem witness_KeyEvents : State.reset.wait = none ∧ waiting.wait = some 3 ∧ 15 < 16 := by decide

/-- Images of 3584 and of 3585 bytes. -/
theorem witness_ConstructLoadsImage :
    (List.replicate 3584 (0 : Byte)).length ≤ 3584 ∧ 3584 < (List.replicate 3585 (0 : Byte)).length := by
  simp only [List.length_replicate]
  omega

theorem witness_BatchIsItsSteps : ∃ t, runCycle 1 State.reset = .next t :=
  ⟨_, rfl⟩

end Sys2Proof.Tests
end

section
/-!
PROOFS. Every operation of the running machine answers a next state (spec 00_scope.md R11, decision D5):
first the instructions that test before they act, then `exec`, the controller and the batches.
-/

namespace Sys2Proof.Machine

/-! ### The instructions that can raise a fault -/

/-- R56: the range check goes on or raises the fault, and both are next states. -/
theorem withIndexRange_answers_next (count : Nat) (s : State) (act : State → State) :
    ∃ t, withIndexRange count s act = .next t := by
  by_cases h : count = 0 ∨ s.index.toNat + count ≤ 4096
  · exact ⟨_, withIndexRange_ok _ _ _ h⟩
  · exact ⟨_, withIndexRange_bad _ _ _ (by omega) (by omega)⟩

/-- R153: StoreBCD only has its range check to fail. -/
theorem execStoreBCD_answers_next (x : Nibble) (s : State) : ∃ t, execStoreBCD x s = .next t :=
  withIndexRange_answers_next _ s _

/-- R154: so has RegDump. -/
theorem execRegDump_answers_next (x : Nibble) (s : State) : ∃ t, execRegDump x s = .next t :=
  withIndexRange_answers_next _ s _

/-- R155: so has RegLoad. -/
theorem execRegLoad_answers_next (x : Nibble) (s : State) : ∃ t, execRegLoad x s = .next t :=
  withIndexRange_answers_next _ s _

/-- R160: so has Draw; the pixels wrap and are not checked (R64). -/
theorem execDraw_answers_next (x y n : Nibble) (s : State) : ∃ t, execDraw x y n s = .next t :=
  withIndexRange_answers_next _ s _

/-- R101: a Call pushes, or raises StackOverflow. -/
theorem execCall_answers_next (nnn : Addr12) (s : State) : ∃ t, execCall nnn s = .next t := by
  by_cases h : s.sp.val < 16
  · exact ⟨_, by rw [execCall, push_ok s _ h]⟩
  · exact ⟨_, by rw [execCall, push_full s _ (by omega)]; rfl⟩

/-- R102: a Return pops, or raises StackUnderflow. -/
theorem execRet_answers_next (s : State) : ∃ t, execRet s = .next t := by
  by_cases h : 0 < s.sp.val
  · exact ⟨_, by rw [execRet, pop_ok s h]⟩
  · exact ⟨_, by rw [execRet, pop_empty s (by omega)]; rfl⟩

/-- R151: AddIndex writes I, or raises IndexOverflow. -/
theorem execAddIndex_answers_next (x : Nibble) (s : State) : ∃ t, execAddIndex x s = .next t := by
  by_cases h : s.index.toNat + (s.reg x).toNat > 0xFFFF
  · exact ⟨_, if_pos h⟩
  · exact ⟨_, if_neg h⟩

/-- R170: the skip is decided, or OutOfRange is raised for the key number. -/
theorem execSkipKeyPressed_answers_next (x : Nibble) (s : State) :
    ∃ t, execSkipKeyPressed x s = .next t := by
  by_cases h : (s.reg x).toNat ≤ 15
  · exact ⟨_, by rw [execSkipKeyPressed, keyOperand_ok x s h]⟩
  · exact ⟨_, by rw [execSkipKeyPressed, keyOperand_bad x s (by omega)]; rfl⟩

/-- R171: the skip is decided, or OutOfRange is raised for the key number. -/
theorem execSkipKeyNotPressed_answers_next (x : Nibble) (s : State) :
    ∃ t, execSkipKeyNotPressed x s = .next t := by
  by_cases h : (s.reg x).toNat ≤ 15
  · exact ⟨_, by rw [execSkipKeyNotPressed, keyOperand_ok x s h]⟩
  · exact ⟨_, by rw [execSkipKeyNotPressed, keyOperand_bad x s (by omega)]; rfl⟩

/-- R11 for an instruction: the ones R200 names go by their own lemma, the meaning of each other one is
a next state as it is written. -/
theorem exec_answers_next (i : Instr) (s : State) : ∃ t, exec i s = .next t :=
  match i with
  | .call nnn => execCall_answers_next nnn s
  | .ret => execRet_answers_next s
  | .addIndex x => execAddIndex_answers_next x s
  | .skipKeyPressed x => execSkipKeyPressed_answers_next x s
  | .skipKeyNotPressed x => execSkipKeyNotPressed_answers_next x s
  | .storeBCD x => execStoreBCD_answers_next x s
  | .regDump x => execRegDump_answers_next x s
  | .regLoad x => execRegLoad_answers_next x s
  | .draw x y n => execDraw_answers_next x y n s
  | .clearScreen | .jump _ | .jumpIndexed _
  | .skipEqImm _ _ | .skipNeImm _ _ | .skipEqReg _ _ | .skipNeReg _ _
  | .loadImm _ _ | .move _ _ | .loadRand _ _
  | .addImm _ _ | .or _ _ | .and _ _ | .xor _ _
  | .add _ _ | .sub _ _ | .subRev _ _ | .shiftRight _ _ | .shiftLeft _ _
  | .loadIndex _ | .loadFont _
  | .loadDelay _ | .waitForKey _ | .setDelay _ | .setSound _ => ⟨_, rfl⟩

/-! ### The controller, one equation per outcome of the fetch and of the decoder -/

/-- R182: a fault of the fetch is raised. -/
theorem fetchExecute_of_fetch_error {s : State} {f : Fault} (h : s.fetch = .error f) :
    fetchExecute s = .next (s.latch f) := by
  rw [fetchExecute, h]
  rfl

/-- R201: a word that does not decode raises DecodeFailure. -/
theorem fetchExecute_of_decode_error {s : State} {w : Word} {e : DecodeError}
    (hw : s.fetch = .ok w) (hd : decode s.cfg.decStrict w = .error e) :
    fetchExecute s = .next (s.latch (.decodeFailure w)) := by
  simp only [fetchExecute, hw, hd]
  rfl

/-- R180: a word that decodes is executed. -/
theorem fetchExecute_of_decode_ok {s : State} {w : Word} {i : Instr}
    (hw : s.fetch = .ok w) (hd : decode s.cfg.decStrict w = .ok i) :
    fetchExecute s = exec i s := by
  simp only [fetchExecute, hw, hd]

theorem fetchExecute_answers_next (s : State) : ∃ t, fetchExecute s = .next t := by
  cases hw : s.fetch with
  | error f => exact ⟨_, fetchExecute_of_fetch_error hw⟩
  | ok w =>
    cases hd : decode s.cfg.decStrict w with
    | error e => exact ⟨_, fetchExecute_of_decode_error hw hd⟩
    | ok i =>
      rw [fetchExecute_of_decode_ok hw hd]
      exact exec_answers_next i s

/-- R11 for a step, of a halted, a blocked and a running machine. -/
theorem step_answers_next (s : State) : ∃ t, step s = .next t := by
  by_cases hf : s.fault = none
  · cases hw : s.wait with
    | some r => exact ⟨_, step_blocked s hf r hw⟩
    | none =>
      rw [step_running s hf hw]
      exact fetchExecute_answers_next s.tick
  · exact ⟨_, step_halted s hf⟩

/-! ### The batches -/

/-- R185: a batch goes on from the state its first step answers. -/
theorem runCycle_succ_of_step {s t : State} (h : step s = .next t) (n : Nat) :
    runCycle (n + 1) s = runCycle n t := by
  rw [runCycle, h]

theorem runCycle_answers_next (n : Nat) (s : State) : ∃ t, runCycle n s = .next t := by
  induction n generalizing s with
  | zero => exact ⟨s, rfl⟩
  | succ n ih =>
    obtain ⟨t, ht⟩ := step_answers_next s
    rw [runCycle_succ_of_step ht]
    exact ih t

/-- R142: a step given its byte is the step with that byte pending, the pending ones put back. -/
theorem stepWith_of_step {r : Byte} {s t : State} (h : step (s.setRandom [r]) = .next t) :
    stepWith r s = .next (t.setRandom s.random) := by
  rw [stepWith, h]

theorem stepWith_answers_next (r : Byte) (s : State) : ∃ t, stepWith r s = .next t := by
  obtain ⟨t, ht⟩ := step_answers_next (s.setRandom [r])
  exact ⟨_, stepWith_of_step ht⟩

/-- D28: a batch over a stream goes on from the state the step of its first byte answers. -/
theorem runCycleWith_cons_of_stepWith {r : Byte} {s t : State} (h : stepWith r s = .next t)
    (rs : List Byte) : runCycleWith (r :: rs) s = runCycleWith rs t := by
  rw [runCycleWith, h]

theorem runCycleWith_answers_next (bytes : List Byte) (s : State) :
    ∃ t, runCycleWith bytes s = .next t := by
  induction bytes generalizing s with
  | nil => exact ⟨s, rfl⟩
  | cons r rs ih =>
    obtain ⟨t, ht⟩ := stepWith_answers_next r s
    rw [runCycleWith_cons_of_stepWith ht]
    exact ih t

/-- Settles O13: by the case split over the instructions and over what the controller meets, and for
the batches by induction on the number of steps and on the stream. -/
theorem everyStepAnswersNext : Obligations.EveryStepAnswersNext := by
  unfold Obligations.EveryStepAnswersNext
  exact ⟨exec_answers_next, step_answers_next, runCycle_answers_next, runCycleWith_answers_next⟩

end Sys2Proof.Machine
end

section
/-!
PROOFS. How to argue from an answer of the machine: one elimination rule for each operation that tests
before it acts and for the step, so that a property of the next state is proved for each thing the
operation can do and for nothing else (spec 47_controller.md R180, 60_exceptions.md R206).
-/

namespace Sys2Proof.Machine

variable {s t : State} {P : State → Prop}

/-! ### The instructions -/

/-- The next state of an answer that is written out. -/
theorem of_next {u : State} (h : (.next u : Host.Outcome State Fault Refusal) = .next t) (hu : P u) :
    P t :=
  Host.Outcome.next.inj h ▸ hu

/-- R56: after the range check the fault is taken or the action done. -/
theorem withIndexRange_elim {count : Nat} {act : State → State}
    (h : withIndexRange count s act = .next t) (hfault : ∀ f, P (s.latch f)) (hact : P (act s)) :
    P t := by
  obtain ⟨rfl, -⟩ | ⟨rfl, -⟩ := withIndexRange_inv h
  · exact hact
  · exact hfault _

/-- R153: StoreBCD faults, or stores its three digits. -/
theorem execStoreBCD_elim {x : Nibble} (h : execStoreBCD x s = .next t)
    (hfault : ∀ f, P (s.latch f)) (hstore : P (storeDigits (s.reg x) s).advance) : P t :=
  withIndexRange_elim h hfault hstore

/-- R154: RegDump faults, or stores its registers. -/
theorem execRegDump_elim {x : Nibble} (h : execRegDump x s = .next t)
    (hfault : ∀ f, P (s.latch f)) (hdump : P (dumpRegs (regCount x) s).advance) : P t :=
  withIndexRange_elim h hfault hdump

/-- R155: RegLoad faults, or loads its registers. -/
theorem execRegLoad_elim {x : Nibble} (h : execRegLoad x s = .next t)
    (hfault : ∀ f, P (s.latch f)) (hload : P (loadRegs (regCount x) s).advance) : P t :=
  withIndexRange_elim h hfault hload

/-- R160: Draw faults, or draws. -/
theorem execDraw_elim {x y n : Nibble} (h : execDraw x y n s = .next t)
    (hfault : ∀ f, P (s.latch f)) (hdraw : P (drawSprite x y n s)) : P t :=
  withIndexRange_elim h hfault hdraw

/-- R101: Call with room on the stack pushes its own address and jumps. -/
theorem execCall_ok (nnn : Addr12) (hroom : s.sp.val < 16) :
    execCall nnn s =
      .next { s with stack := s.stack.set s.sp.val s.pc hroom, sp := ⟨s.sp.val + 1, by omega⟩,
                     pc := absAddr nnn } := by
  rw [execCall, push_ok s _ hroom]
  rfl

/-- R101: Call on a full stack raises StackOverflow. -/
theorem execCall_full (nnn : Addr12) (hfull : ¬s.sp.val < 16) :
    execCall nnn s = .next (s.latch .stackOverflow) := by
  rw [execCall, push_full s _ (by omega)]
  rfl

theorem execCall_elim {nnn : Addr12} (h : execCall nnn s = .next t) (hfault : ∀ f, P (s.latch f))
    (hpush : ∀ hroom : s.sp.val < 16,
      P { s with stack := s.stack.set s.sp.val s.pc hroom, sp := ⟨s.sp.val + 1, by omega⟩,
                 pc := absAddr nnn }) : P t := by
  by_cases hroom : s.sp.val < 16
  · exact of_next ((execCall_ok nnn hroom).symm.trans h) (hpush hroom)
  · exact of_next ((execCall_full nnn hroom).symm.trans h) (hfault _)

/-- R102: Return with an entry in use pops it and goes on behind it. -/
theorem execRet_ok (hentry : 0 < s.sp.val) :
    execRet s =
      .next { s with sp := ⟨s.sp.val - 1, by omega⟩,
                     pc := s.stack[s.sp.val - 1]'(by omega) + 2 } := by
  rw [execRet, pop_ok s hentry]
  rfl

/-- R102: Return on an empty stack raises StackUnderflow. -/
theorem execRet_empty (hempty : ¬0 < s.sp.val) : execRet s = .next (s.latch .stackUnderflow) := by
  rw [execRet, pop_empty s (by omega)]
  rfl

theorem execRet_elim (h : execRet s = .next t) (hfault : ∀ f, P (s.latch f))
    (hpop : ∀ hentry : 0 < s.sp.val,
      P { s with sp := ⟨s.sp.val - 1, by omega⟩, pc := s.stack[s.sp.val - 1]'(by omega) + 2 }) :
    P t := by
  by_cases hentry : 0 < s.sp.val
  · exact of_next ((execRet_ok hentry).symm.trans h) (hpop hentry)
  · exact of_next ((execRet_empty hentry).symm.trans h) (hfault _)

/-- R151: AddIndex takes IndexOverflow, or writes I. -/
theorem execAddIndex_elim {x : Nibble} (h : execAddIndex x s = .next t)
    (hfault : ∀ f, P (s.latch f)) (hset : ∀ a, P (s.setIndex a).advance) : P t := by
  by_cases hsum : s.index.toNat + (s.reg x).toNat > 0xFFFF
  · exact of_next ((if_pos hsum).symm.trans h) (hfault _)
  · exact of_next ((if_neg hsum).symm.trans h) (hset _)

/-- What the two key skips share (R170, R171): the range check of the key number, and a skip on the
key's flag or its negation. -/
def skipOnKey (c : Bool → Bool) (x : Nibble) (s : State) : Host.Outcome State Fault Refusal :=
  match keyOperand x s with
  | .ok k => .next (skipIf (c (s.key k)) s)
  | .error f => raise f s

theorem execSkipKeyPressed_eq (x : Nibble) (s : State) : execSkipKeyPressed x s = skipOnKey id x s :=
  rfl

theorem execSkipKeyNotPressed_eq (x : Nibble) (s : State) :
    execSkipKeyNotPressed x s = skipOnKey not x s :=
  rfl

theorem skipOnKey_ok (c : Bool → Bool) {x : Nibble} (hk : (s.reg x).toNat ≤ 15) :
    skipOnKey c x s = .next (skipIf (c (s.key ((s.reg x).setWidth 4))) s) := by
  rw [skipOnKey, keyOperand_ok x s hk]

theorem skipOnKey_bad (c : Bool → Bool) {x : Nibble} (hk : 15 < (s.reg x).toNat) :
    skipOnKey c x s = .next (s.latch (.outOfRange .key (s.reg x).toNat)) := by
  rw [skipOnKey, keyOperand_bad x s hk]
  rfl

/-- R170, R171: a key skip takes OutOfRange, or skips on some condition. -/
theorem skipOnKey_elim {c : Bool → Bool} {x : Nibble} (h : skipOnKey c x s = .next t)
    (hfault : ∀ f, P (s.latch f)) (hskip : ∀ c, P (skipIf c s)) : P t := by
  by_cases hk : (s.reg x).toNat ≤ 15
  · exact of_next ((skipOnKey_ok c hk).symm.trans h) (hskip _)
  · exact of_next ((skipOnKey_bad c (Nat.not_le.1 hk)).symm.trans h) (hfault _)

theorem execSkipKeyPressed_elim {x : Nibble} (h : execSkipKeyPressed x s = .next t)
    (hfault : ∀ f, P (s.latch f)) (hskip : ∀ c, P (skipIf c s)) : P t :=
  skipOnKey_elim ((execSkipKeyPressed_eq x s).symm.trans h) hfault hskip

theorem execSkipKeyNotPressed_elim {x : Nibble} (h : execSkipKeyNotPressed x s = .next t)
    (hfault : ∀ f, P (s.latch f)) (hskip : ∀ c, P (skipIf c s)) : P t :=
  skipOnKey_elim ((execSkipKeyNotPressed_eq x s).symm.trans h) hfault hskip

/-! ### The step -/

/-- A step of `s` raises `f` before any instruction is executed: the machine is neither halted nor
blocked, and its fetch or its decoder fails (R182, R201). It stands beside `State.Executes`. -/
structure State.FailsFetch (s : State) (f : Fault) : Prop where
  running : s.fault = none
  unblocked : s.wait = none
  failed : s.fetch = .error f ∨
    ∃ w e, s.fetch = .ok w ∧ decode s.cfg.decStrict w = .error e ∧ f = .decodeFailure w

/-- The four things a step can come to (R180, R184, R191). -/
inductive State.StepCase (s : State) : Prop where
  | halted (h : s.fault ≠ none)
  | blocked (r : Nibble) (hf : s.fault = none) (hw : s.wait = some r)
  | fails (f : Fault) (h : s.FailsFetch f)
  | executes (i : Instr) (h : s.Executes i)

/-- A fetch that answers a word answers the word at PC, and PC is inside memory. -/
theorem fetch_eq_ok {w : Word} (h : s.fetch = .ok w) : s.Fetchable ∧ w = s.wordAtPc := by
  by_cases hpc : s.pc.toNat + 1 < 4096
  · rw [fetch_ok s hpc] at h
    exact ⟨by unfold State.Fetchable; omega, (Except.ok.inj h).symm⟩
  · rw [fetch_error s (by omega)] at h
    cases h

/-- Every state is in one of the four cases. -/
theorem State.stepCase (s : State) : s.StepCase := by
  by_cases hf : s.fault = none
  · cases hw : s.wait with
    | some r => exact .blocked r hf hw
    | none =>
      cases hfetch : s.fetch with
      | error f => exact .fails f ⟨hf, hw, .inl hfetch⟩
      | ok w =>
        cases hd : decode s.cfg.decStrict w with
        | error e => exact .fails _ ⟨hf, hw, .inr ⟨w, e, hfetch, hd, rfl⟩⟩
        | ok i =>
          obtain ⟨hpc, rfl⟩ := fetch_eq_ok hfetch
          exact .executes i ⟨hf, hw, hpc, hd⟩
  · exact .halted hf

/-- R182, R201, R206: a step that fails before execution ticks and latches the fault. -/
theorem step_of_failsFetch {f : Fault} (h : s.FailsFetch f) : step s = .next (s.tick.latch f) := by
  rw [step_running s h.running h.unblocked]
  obtain hfetch | ⟨w, e, hfetch, hd, rfl⟩ := h.failed
  · exact fetchExecute_of_fetch_error hfetch
  · exact fetchExecute_of_decode_error hfetch hd

/-- R180: a step that executes `i` is `exec i` at the ticked state. -/
theorem step_of_executes {i : Instr} (h : s.Executes i) : step s = exec i s.tick := by
  have hpc : s.pc.toNat + 1 ≤ 4095 := h.fetchable
  rw [step_running s h.running h.unblocked]
  exact fetchExecute_of_decode_ok (fetch_ok s.tick (by rw [tick_pc]; omega)) h.decodes

/-- What is to be shown of the state after a step, case by case. -/
theorem step_elim (h : step s = .next t) (hhalted : s.fault ≠ none → P s)
    (hblocked : s.fault = none → P s.tick) (hfails : ∀ f, s.FailsFetch f → P (s.tick.latch f))
    (hexec : ∀ i, s.Executes i → exec i s.tick = .next t → P t) : P t := by
  cases s.stepCase with
  | halted hf => exact of_next ((step_halted s hf).symm.trans h) (hhalted hf)
  | blocked r hf hw => exact of_next ((step_blocked s hf r hw).symm.trans h) (hblocked hf)
  | fails f hs => exact of_next ((step_of_failsFetch hs).symm.trans h) (hfails f hs)
  | executes i hs => exact hexec i hs ((step_of_executes hs).symm.trans h)

end Sys2Proof.Machine
end

section
/-!
PROOFS. What an instruction leaves unchanged: the parts of the state it does not write (spec 10_state.md
R36) and the registers it does not name (R21).
-/

namespace Sys2Proof.Machine

variable {s t u : State} {parts : List Part}

/-! ### Frames compose -/

/-- A part is unchanged from a state to itself. -/
theorem Part.same_refl (p : Part) (s : State) : p.same s s := by
  cases p with
  | stack => exact ⟨rfl, rfl⟩
  | regs | mem => exact fun _ => rfl
  | _ => exact rfl

theorem Part.same_trans {p : Part} (h : p.same s t) (h' : p.same t u) : p.same s u := by
  cases p with
  | stack => exact ⟨h'.1.trans h.1, h'.2.trans h.2⟩
  | regs | mem => exact fun a => (h' a).trans (h a)
  | _ => exact Eq.trans h' h

theorem OnlyChanges.trans (h : OnlyChanges parts s t) (h' : OnlyChanges parts t u) :
    OnlyChanges parts s u :=
  fun p hp => Part.same_trans (h p hp) (h' p hp)

/-! ### The frame of an update

One lemma per part, for any value written; most also move PC, which is no part. -/

theorem onlyChanges_pc (a : Word) : OnlyChanges parts s { s with pc := a } :=
  fun p _ => by
    have hkept := Part.same_refl p s
    cases p <;> exact hkept

theorem onlyChanges_regs {v : Vector Byte 16} {a : Word} (h : .regs ∈ parts) :
    OnlyChanges parts s { s with v := v, pc := a } :=
  fun p hp => by
    have hkept := Part.same_refl p s
    cases p with
    | regs => exact absurd h hp
    | _ => exact hkept

theorem onlyChanges_index {i a : Word} (h : .index ∈ parts) :
    OnlyChanges parts s { s with index := i, pc := a } :=
  fun p hp => by
    have hkept := Part.same_refl p s
    cases p with
    | index => exact absurd h hp
    | _ => exact hkept

theorem onlyChanges_stack {k : Vector Word 16} {n : Fin 17} {a : Word} (h : .stack ∈ parts) :
    OnlyChanges parts s { s with stack := k, sp := n, pc := a } :=
  fun p hp => by
    have hkept := Part.same_refl p s
    cases p with
    | stack => exact absurd h hp
    | _ => exact hkept

theorem onlyChanges_dt {b : Byte} {a : Word} (h : .dt ∈ parts) :
    OnlyChanges parts s { s with dt := b, pc := a } :=
  fun p hp => by
    have hkept := Part.same_refl p s
    cases p with
    | dt => exact absurd h hp
    | _ => exact hkept

theorem onlyChanges_st {b : Byte} {a : Word} (h : .st ∈ parts) :
    OnlyChanges parts s { s with st := b, pc := a } :=
  fun p hp => by
    have hkept := Part.same_refl p s
    cases p with
    | st => exact absurd h hp
    | _ => exact hkept

theorem onlyChanges_wait {w : Option Nibble} {a : Word} (h : .wait ∈ parts) :
    OnlyChanges parts s { s with wait := w, pc := a } :=
  fun p hp => by
    have hkept := Part.same_refl p s
    cases p with
    | wait => exact absurd h hp
    | _ => exact hkept

theorem onlyChanges_fb {fb : Framebuffer} {a : Word} (h : .fb ∈ parts) :
    OnlyChanges parts s { s with fb := fb, pc := a } :=
  fun p hp => by
    have hkept := Part.same_refl p s
    cases p with
    | fb => exact absurd h hp
    | _ => exact hkept

theorem onlyChanges_mem {m : Memory} {a : Word} (h : .mem ∈ parts) :
    OnlyChanges parts s { s with mem := m, pc := a } :=
  fun p hp => by
    have hkept := Part.same_refl p s
    cases p with
    | mem => exact absurd h hp
    | _ => exact hkept

theorem onlyChanges_random {n : Nat} {bytes : List Byte} (hn : .draws ∈ parts)
    (hb : .random ∈ parts) : OnlyChanges parts s { s with draws := n, random := bytes } :=
  fun p hp => by
    have hkept := Part.same_refl p s
    cases p with
    | draws => exact absurd hn hp
    | random => exact absurd hb hp
    | _ => exact hkept

theorem onlyChanges_latch (h : .fault ∈ parts) (f : Fault) : OnlyChanges parts s (s.latch f) :=
  fun p hp => by
    have hkept := Part.same_refl p s
    cases p with
    | fault => exact absurd h hp
    | _ => exact hkept

/-! ### The memory loops and Draw -/

theorem onlyChanges_dumpRegs (k : Nat) (h : .mem ∈ parts) :
    OnlyChanges parts s (dumpRegs k s).advance := by
  obtain ⟨m, hm⟩ := dumpRegs_keeps k s
  rw [hm]
  exact onlyChanges_mem h

theorem onlyChanges_loadRegs (k : Nat) (h : .regs ∈ parts) :
    OnlyChanges parts s (loadRegs k s).advance := by
  obtain ⟨v, hv⟩ := loadRegs_keeps k s
  rw [hv]
  exact onlyChanges_regs h

theorem onlyChanges_drawSprite (x y n : Nibble) (hfb : .fb ∈ parts) (hregs : .regs ∈ parts) :
    OnlyChanges parts s (drawSprite x y n s) :=
  (onlyChanges_fb (a := s.pc) hfb).trans (onlyChanges_regs hregs)

/-! ### Every instruction -/

/-- R36: an instruction writes no part but its own. -/
theorem exec_onlyChanges {i : Instr} (h : exec i s = .next t) : OnlyChanges (partsWritten i) s t :=
  match i, h with
  | .clearScreen, h => of_next h (onlyChanges_fb (by simp [partsWritten]))
  | .draw x y n, h =>
    execDraw_elim h (onlyChanges_latch (by simp [partsWritten]))
      (onlyChanges_drawSprite x y n (by simp [partsWritten]) (by simp [partsWritten]))
  | .ret, h =>
    execRet_elim h (onlyChanges_latch (by simp [partsWritten]))
      fun _ => onlyChanges_stack (by simp [partsWritten])
  | .call _, h =>
    execCall_elim h (onlyChanges_latch (by simp [partsWritten]))
      fun _ => onlyChanges_stack (by simp [partsWritten])
  | .jump _, h | .jumpIndexed _, h
  | .skipEqImm _ _, h | .skipNeImm _ _, h | .skipEqReg _ _, h | .skipNeReg _ _, h =>
    of_next h (onlyChanges_pc _)
  | .loadImm _ _, h | .addImm _ _, h | .move _ _, h | .or _ _, h | .and _ _, h | .xor _ _, h
  | .add _ _, h | .sub _ _, h | .subRev _ _, h | .shiftRight _ _, h | .shiftLeft _ _, h
  | .loadDelay _, h => of_next h (onlyChanges_regs (by simp [partsWritten]))
  | .loadRand _ _, h =>
    of_next h ((onlyChanges_random (by simp [partsWritten]) (by simp [partsWritten])).trans
      (onlyChanges_regs (by simp [partsWritten])))
  | .loadIndex _, h | .loadFont _, h => of_next h (onlyChanges_index (by simp [partsWritten]))
  | .addIndex _, h =>
    execAddIndex_elim h (onlyChanges_latch (by simp [partsWritten]))
      fun _ => onlyChanges_index (by simp [partsWritten])
  | .skipKeyPressed _, h =>
    execSkipKeyPressed_elim h (onlyChanges_latch (by simp [partsWritten])) fun _ => onlyChanges_pc _
  | .skipKeyNotPressed _, h =>
    execSkipKeyNotPressed_elim h (onlyChanges_latch (by simp [partsWritten]))
      fun _ => onlyChanges_pc _
  | .waitForKey _, h => of_next h (onlyChanges_wait (by simp [partsWritten]))
  | .setDelay _, h => of_next h (onlyChanges_dt (by simp [partsWritten]))
  | .setSound _, h => of_next h (onlyChanges_st (by simp [partsWritten]))
  | .storeBCD _, h =>
    execStoreBCD_elim h (onlyChanges_latch (by simp [partsWritten]))
      (onlyChanges_mem (by simp [partsWritten]))
  | .regDump _, h =>
    execRegDump_elim h (onlyChanges_latch (by simp [partsWritten]))
      (onlyChanges_dumpRegs _ (by simp [partsWritten]))
  | .regLoad _, h =>
    execRegLoad_elim h (onlyChanges_latch (by simp [partsWritten]))
      (onlyChanges_loadRegs _ (by simp [partsWritten]))

/-- Settles O23: by the frame of each instruction, put together from the frames of its updates. -/
theorem instructionsWriteOnlyTheirParts : Obligations.InstructionsWriteOnlyTheirParts := by
  unfold Obligations.InstructionsWriteOnlyTheirParts
  exact fun _ _ _ => exec_onlyChanges

/-! ### The registers -/

variable {x r : Nibble}

theorem writeReg_reg_ne (b : Byte) (hr : r ≠ x) : (writeReg x b s).reg r = s.reg r :=
  setReg_reg_ne s x b r hr

theorem writeFlagged_reg_ne (flag b : Byte) (hr : ¬(r = x ∨ r = 0xF)) :
    (writeFlagged flag x b s).reg r = s.reg r := by
  obtain ⟨hx, hF⟩ := not_or.1 hr
  exact (setReg_reg_ne _ x b r hx).trans (setReg_reg_ne s 0xF flag r hF)

theorem drawSprite_reg_ne (y n : Nibble) (hr : r ≠ 0xF) : (drawSprite x y n s).reg r = s.reg r :=
  setReg_reg_ne (s.setFb _) 0xF _ r hr

theorem loadRegs_reg_above (hr : ¬r.toNat ≤ x.toNat) : (loadRegs (regCount x) s).reg r = s.reg r := by
  have hx : regCount x ≤ 16 := x.isLt
  rw [loadRegs_reg _ hx, if_neg (by unfold regCount; omega)]

/-- R21, R235: from `s` to `t` every register `i` does not name is unchanged. -/
def KeepsUnnamedRegs (i : Instr) (s t : State) : Prop :=
  ∀ r : Nibble, ¬mayWriteReg r i → t.reg r = s.reg r

/-- R21: by the register rules where an instruction writes registers, and by its frame where it writes
none. -/
theorem exec_keepsUnnamedRegs {i : Instr} (h : exec i s = .next t) : KeepsUnnamedRegs i s t :=
  match i, h with
  | .loadImm _ _, h | .addImm _ _, h | .move _ _, h | .or _ _, h | .and _ _, h | .xor _ _, h
  | .loadDelay _, h => of_next h fun _ => writeReg_reg_ne _
  | .loadRand _ _, h => of_next h fun _ => writeReg_reg_ne (s := s.takeRandom) _
  | .add _ _, h | .sub _ _, h | .subRev _ _, h | .shiftRight _ _, h | .shiftLeft _ _, h =>
    of_next h fun _ => writeFlagged_reg_ne _ _
  | .draw _ y n, h => execDraw_elim h (fun _ _ _ => rfl) fun _ => drawSprite_reg_ne y n
  | .regLoad _, h => execRegLoad_elim h (fun _ _ _ => rfl) fun _ => loadRegs_reg_above
  | .clearScreen, h | .ret, h | .jump _, h | .call _, h | .skipEqImm _ _, h | .skipNeImm _ _, h
  | .skipEqReg _ _, h | .skipNeReg _ _, h | .loadIndex _, h | .jumpIndexed _, h
  | .skipKeyPressed _, h | .skipKeyNotPressed _, h | .waitForKey _, h | .setDelay _, h
  | .setSound _, h | .addIndex _, h | .loadFont _, h | .storeBCD _, h | .regDump _, h =>
    fun r _ => exec_onlyChanges h .regs (by simp [partsWritten]) r

/-- Settles O24: by the register rules for the instructions that write registers, and by the frame for
the others. -/
theorem registersWrittenOnlyAsNamed : Obligations.RegistersWrittenOnlyAsNamed := by
  unfold Obligations.RegistersWrittenOnlyAsNamed
  exact fun _ _ _ r h => exec_keepsUnnamedRegs h r

end Sys2Proof.Machine
end

section
/-!
PROOFS. The invariant of every reachable state (spec 10_state.md R37): first the rules of the updates, then
the instructions, the step, the moves of the host and their histories.
-/

namespace Sys2Proof.Machine

variable {s t : State}

/-! ### The next program counter stays below 0x10FE -/

theorem pc_add_two_le (h : s.Fetchable) : (s.pc + 2).toNat ≤ 0x10FE := by
  have hpc : s.pc.toNat + 1 ≤ 4095 := h
  have hnext := advance_pc_toNat s hpc
  rw [advance_pc] at hnext
  omega

theorem skipIf_pc_le (c : Bool) (h : s.Fetchable) : (skipIf c s).pc.toNat ≤ 0x10FE := by
  have hpc : s.pc.toNat + 1 ≤ 4095 := h
  rw [skipIf_pc_toNat c s hpc]
  split <;> omega

theorem absAddr_le (nnn : Addr12) : (absAddr nnn).toNat ≤ 0x10FE := by
  have := nnn.isLt
  simp only [absAddr, BitVec.toNat_setWidth]
  omega

/-- R103: 0xFFF + 0xFF = 0x10FE is the largest program counter there is. -/
theorem indexedTarget_le (nnn : Addr12) : (indexedTarget nnn s).toNat ≤ 0x10FE := by
  have := nnn.isLt
  have := (s.reg 0).isLt
  simp only [indexedTarget, BitVec.toNat_ofNat]
  omega

/-- R102: the instruction after a recorded Call. -/
theorem entry_add_two_le {a : Word} (h : a.toNat ≤ 4094) : (a + 2).toNat ≤ 0x10FE := by
  simp only [BitVec.toNat_add, BitVec.reduceToNat]
  omega

/-! ### What each update needs to keep the invariant -/

/-- The parts the invariant does not speak of may take any value, PC any value it allows. -/
theorem State.Inv.update (h : s.Inv) {a : Word} (ha : a.toNat ≤ 0x10FE) {v : Vector Byte 16}
    {index : Word} {dt st : Byte} {keys : Vector Bool 16} {fb : Framebuffer} {draws : Nat}
    {random : List Byte} :
    State.Inv { s with pc := a, v := v, index := index, dt := dt, st := st, keys := keys, fb := fb,
                       draws := draws, random := random } :=
  ⟨ha, h.entries_le, h.halted_not_waiting, h.mem_ok⟩

theorem State.Inv.latch (h : s.Inv) (hw : s.wait = none) (f : Fault) : (s.latch f).Inv :=
  ⟨h.pc_le, h.entries_le, fun _ => hw, h.mem_ok⟩

theorem State.Inv.setWait_none (h : s.Inv) : (s.setWait none).Inv :=
  ⟨h.pc_le, h.entries_le, fun _ => rfl, h.mem_ok⟩

theorem State.Inv.poke (h : s.Inv) (a : Nat) (b : Byte) : (s.poke a b).Inv :=
  ⟨h.pc_le, h.entries_le, h.halted_not_waiting, poke_memWf s a b h.mem_ok⟩

/-- R101: a Call that was fetched records an address of at most 4094 above the entries in use. -/
theorem State.Inv.push (h : s.Inv) (hpc : s.Fetchable) (hroom : s.sp.val < 16) {a : Word}
    (ha : a.toNat ≤ 0x10FE) :
    State.Inv { s with stack := s.stack.set s.sp.val s.pc hroom, sp := ⟨s.sp.val + 1, by omega⟩,
                       pc := a } := by
  refine ⟨ha, fun k hk => ?_, h.halted_not_waiting, h.mem_ok⟩
  have hpc : s.pc.toNat + 1 ≤ 4095 := hpc
  have hk : k.val < s.sp.val + 1 := hk
  by_cases htop : s.sp.val = k.val
  · simp only [htop, Vector.getElem_set_self]
    omega
  · simp only [Vector.getElem_set_ne _ _ htop]
    exact h.entries_le k (by omega)

/-- R102: a Return takes the last entry in use, which the invariant bounds. -/
theorem State.Inv.pop (h : s.Inv) (hentry : 0 < s.sp.val) :
    State.Inv { s with sp := ⟨s.sp.val - 1, by omega⟩,
                       pc := s.stack[s.sp.val - 1]'(by omega) + 2 } where
  pc_le := entry_add_two_le (h.entries_le ⟨s.sp.val - 1, by omega⟩ (Nat.sub_one_lt_of_lt hentry))
  entries_le k hk := h.entries_le k (Nat.lt_of_lt_of_le hk (Nat.sub_le _ _))
  halted_not_waiting := h.halted_not_waiting
  mem_ok := h.mem_ok

theorem State.Inv.dumpRegs (h : s.Inv) (hpc : s.Fetchable) (k : Nat) :
    (dumpRegs k s).advance.Inv := by
  have hmem := dumpRegs_memWf k s h.mem_ok
  obtain ⟨m, hm⟩ := dumpRegs_keeps k s
  rw [hm] at hmem ⊢
  exact ⟨pc_add_two_le hpc, h.entries_le, h.halted_not_waiting, hmem⟩

theorem State.Inv.loadRegs (h : s.Inv) (hpc : s.Fetchable) (k : Nat) :
    (loadRegs k s).advance.Inv := by
  obtain ⟨v, hv⟩ := loadRegs_keeps k s
  rw [hv]
  exact h.update (pc_add_two_le hpc)

/-! ### The step -/

/-- R37: an instruction that was fetched in a machine neither halted nor waiting keeps the invariant. -/
theorem State.Inv.exec {i : Instr} (hi : s.Inv) (hf : s.fault = none) (hw : s.wait = none)
    (hpc : s.Fetchable) (h : exec i s = .next t) : t.Inv :=
  match i, h with
  | .jump nnn, h => of_next h (hi.update (absAddr_le nnn))
  | .jumpIndexed nnn, h => of_next h (hi.update (indexedTarget_le nnn))
  | .call nnn, h =>
    execCall_elim h (hi.latch hw) fun hroom => hi.push hpc hroom (absAddr_le nnn)
  | .ret, h => execRet_elim h (hi.latch hw) fun hentry => hi.pop hentry
  | .skipEqImm _ _, h | .skipNeImm _ _, h | .skipEqReg _ _, h | .skipNeReg _ _, h =>
    of_next h (hi.update (skipIf_pc_le _ hpc))
  | .skipKeyPressed _, h =>
    execSkipKeyPressed_elim h (hi.latch hw) fun c => hi.update (skipIf_pc_le c hpc)
  | .skipKeyNotPressed _, h =>
    execSkipKeyNotPressed_elim h (hi.latch hw) fun c => hi.update (skipIf_pc_le c hpc)
  | .clearScreen, h | .loadImm _ _, h | .addImm _ _, h | .move _ _, h | .or _ _, h | .and _ _, h
  | .xor _ _, h | .add _ _, h | .sub _ _, h | .subRev _ _, h | .shiftRight _ _, h
  | .shiftLeft _ _, h | .loadRand _ _, h | .loadIndex _, h | .loadFont _, h | .loadDelay _, h
  | .setDelay _, h | .setSound _, h => of_next h (hi.update (pc_add_two_le hpc))
  | .addIndex _, h =>
    execAddIndex_elim h (hi.latch hw) fun _ => hi.update (pc_add_two_le hpc)
  | .draw _ _ _, h => execDraw_elim h (hi.latch hw) (hi.update (pc_add_two_le hpc))
  | .waitForKey _, h =>
    of_next h ⟨pc_add_two_le hpc, hi.entries_le, fun hne => absurd hf hne, hi.mem_ok⟩
  | .storeBCD _, h =>
    execStoreBCD_elim h (hi.latch hw)
      ((((hi.poke _ _).poke _ _).poke _ _).update (pc_add_two_le hpc))
  | .regDump _, h => execRegDump_elim h (hi.latch hw) (hi.dumpRegs hpc _)
  | .regLoad _, h => execRegLoad_elim h (hi.latch hw) (hi.loadRegs hpc _)

theorem State.Inv.tick (h : s.Inv) : s.tick.Inv := h.update h.pc_le

theorem State.Inv.step (hi : s.Inv) (h : step s = .next t) : t.Inv :=
  step_elim h (fun _ => hi) (fun _ => hi.tick) (fun f hs => hi.tick.latch hs.unblocked f)
    fun _ hs => hi.tick.exec hs.running hs.unblocked hs.fetchable

/-- Settles O18: by the cases of a step, and for an executed instruction by the rules of its updates. -/
theorem stepKeepsInvariant : Obligations.StepKeepsInvariant := by
  unfold Obligations.StepKeepsInvariant
  exact fun _ _ => State.Inv.step

end Sys2Proof.Machine
end

section
/-!
PROOFS. What a step does not look at: the sound timer (spec 10_state.md R26), the stack entries that are
not in use (decision D23) and, where no random byte is drawn, the random input (decision D28). The three
are one statement about two machines that differ in such things alone.
-/

namespace Sys2Proof.Machine

variable {s t : State} {parts : List Part}

/-! ### An instruction that does not write the stack, ST or the random input does not read it -/

/-- The state with another stack, another ST and another random input. -/
def State.withUnread (s : State) (k : Vector Word 16) (b : Byte) (bytes : List Byte) : State :=
  { s with stack := k, st := b, random := bytes }

section

variable {k : Vector Word 16} {b : Byte} {bytes : List Byte}

theorem withIndexRange_withUnread {count : Nat} {act : State → State}
    (h : withIndexRange count s act = .next t)
    (hact : act (s.withUnread k b bytes) = (act s).withUnread k b bytes) :
    withIndexRange count (s.withUnread k b bytes) act = .next (t.withUnread k b bytes) := by
  obtain ⟨rfl, hin⟩ | ⟨rfl, hcount, hout⟩ := withIndexRange_inv h
  · rw [← hact]
    exact withIndexRange_ok count (s.withUnread k b bytes) act hin
  · exact withIndexRange_bad count (s.withUnread k b bytes) act hcount hout

theorem dumpRegs_withUnread (n : Nat) :
    dumpRegs n (s.withUnread k b bytes) = (dumpRegs n s).withUnread k b bytes := by
  induction n with
  | zero => rfl
  | succ n ih =>
    rw [dumpRegs, ih]
    rfl

theorem loadRegs_withUnread (n : Nat) :
    loadRegs n (s.withUnread k b bytes) = (loadRegs n s).withUnread k b bytes := by
  induction n with
  | zero => rfl
  | succ n ih =>
    rw [loadRegs, ih]
    rfl

theorem skipOnKey_withUnread {c : Bool → Bool} {x : Nibble} (h : skipOnKey c x s = .next t) :
    skipOnKey c x (s.withUnread k b bytes) = .next (t.withUnread k b bytes) := by
  by_cases hk : (s.reg x).toNat ≤ 15
  · cases (skipOnKey_ok c hk).symm.trans h
    exact skipOnKey_ok (s := s.withUnread k b bytes) c hk
  · cases (skipOnKey_bad c (Nat.not_le.1 hk)).symm.trans h
    exact skipOnKey_bad (s := s.withUnread k b bytes) c (Nat.not_le.1 hk)

theorem execAddIndex_withUnread {x : Nibble} (h : execAddIndex x s = .next t) :
    execAddIndex x (s.withUnread k b bytes) = .next (t.withUnread k b bytes) := by
  by_cases hsum : s.index.toNat + (s.reg x).toNat > 0xFFFF
  · cases (if_pos hsum).symm.trans h
    exact if_pos hsum
  · cases (if_neg hsum).symm.trans h
    exact if_neg hsum

theorem exec_withUnread {i : Instr} (h : exec i s = .next t) (hstack : .stack ∉ partsWritten i)
    (hst : .st ∉ partsWritten i) (hrandom : .random ∉ partsWritten i) :
    exec i (s.withUnread k b bytes) = .next (t.withUnread k b bytes) :=
  match i, h with
  | .call _, _ | .ret, _ => absurd (by simp [partsWritten]) hstack
  | .setSound _, _ => absurd (by simp [partsWritten]) hst
  | .loadRand _ _, _ => absurd (by simp [partsWritten]) hrandom
  | .storeBCD x, h => withIndexRange_withUnread (show execStoreBCD x s = _ from h) rfl
  | .regDump x, h =>
    withIndexRange_withUnread (show execRegDump x s = _ from h)
      (congrArg State.advance (dumpRegs_withUnread _))
  | .regLoad x, h =>
    withIndexRange_withUnread (show execRegLoad x s = _ from h)
      (congrArg State.advance (loadRegs_withUnread _))
  | .draw _ _ _, h => withIndexRange_withUnread h rfl
  | .skipKeyPressed _, h => skipOnKey_withUnread (c := id) h
  | .skipKeyNotPressed _, h => skipOnKey_withUnread (c := not) h
  | .addIndex _, h => execAddIndex_withUnread h
  | .clearScreen, h | .jump _, h | .jumpIndexed _, h | .skipEqImm _ _, h | .skipNeImm _ _, h
  | .skipEqReg _ _, h | .skipNeReg _ _, h | .loadImm _ _, h | .addImm _ _, h | .move _ _, h
  | .or _ _, h | .and _ _, h | .xor _ _, h | .add _ _, h | .sub _ _, h | .subRev _ _, h
  | .shiftRight _ _, h | .shiftLeft _ _, h | .loadIndex _, h | .loadFont _, h | .loadDelay _, h
  | .waitForKey _, h | .setDelay _, h => by cases h; rfl

end

/-! ### Two machines alike but for what is not read -/

/-- The second machine differs from `s` at most in the `parts` among the stack, ST and the random input,
and in the stack only where no entry is in use. -/
inductive State.Alike (parts : List Part) (s : State) : State → Prop where
  | intro (k : Vector Word 16) (b : Byte) (bytes : List Byte)
      (hstack : .stack ∉ parts → k = s.stack)
      (hlive : ∀ j : Fin 16, j.val < s.sp.val → k[j.val] = s.stack[j.val])
      (hst : .st ∉ parts → b = s.st)
      (hrandom : .random ∉ parts → bytes = s.random) : s.Alike parts (s.withUnread k b bytes)

/-- R101: both machines push the same address at the same place. -/
theorem State.Alike.call (h : s.Alike parts t) (nnn : Addr12) :
    ∃ s' t', execCall nnn s = .next s' ∧ execCall nnn t = .next t' ∧ s'.Alike parts t' := by
  obtain ⟨k, b, bytes, hstack, hlive, hst, hrandom⟩ := h
  by_cases hroom : s.sp.val < 16
  · refine ⟨_, _, execCall_ok nnn hroom, execCall_ok (s := s.withUnread k b bytes) nnn hroom,
      .intro (k.set s.sp.val s.pc hroom) b bytes (fun hp => by rw [hstack hp]) (fun j hj => ?_) hst
        hrandom⟩
    have hj : j.val < s.sp.val + 1 := hj
    by_cases htop : s.sp.val = j.val
    · simp only [htop, Vector.getElem_set_self]
    · simp only [Vector.getElem_set_ne _ _ htop]
      exact hlive j (by omega)
  · exact ⟨_, _, execCall_full nnn hroom, execCall_full (s := s.withUnread k b bytes) nnn hroom,
      .intro k b bytes hstack hlive hst hrandom⟩

/-- R102: both machines pop the same entry, one in use. -/
theorem State.Alike.ret (h : s.Alike parts t) :
    ∃ s' t', execRet s = .next s' ∧ execRet t = .next t' ∧ s'.Alike parts t' := by
  obtain ⟨k, b, bytes, hstack, hlive, hst, hrandom⟩ := h
  by_cases hentry : 0 < s.sp.val
  · have htop : k[s.sp.val - 1] = s.stack[s.sp.val - 1] :=
      hlive ⟨s.sp.val - 1, by omega⟩ (Nat.sub_one_lt_of_lt hentry)
    have hret := execRet_ok (s := s.withUnread k b bytes) hentry
    simp only [State.withUnread, htop] at hret
    exact ⟨_, _, execRet_ok hentry, hret,
      .intro k b bytes hstack (fun j hj => hlive j (Nat.lt_of_lt_of_le hj (Nat.sub_le _ _))) hst
        hrandom⟩
  · exact ⟨_, _, execRet_empty hentry, execRet_empty (s := s.withUnread k b bytes) hentry,
      .intro k b bytes hstack hlive hst hrandom⟩

/-- R142: LoadRand draws the same byte where the input is the same, and leaves the same input. -/
theorem State.Alike.loadRand (h : s.Alike parts t) (hp : .random ∉ parts) (x : Nibble) (nn : Byte) :
    ∃ s' t', execLoadRand x nn s = .next s' ∧ execLoadRand x nn t = .next t' ∧
      s'.Alike parts t' := by
  obtain ⟨k, b, bytes, hstack, hlive, hst, hrandom⟩ := h
  obtain rfl := hrandom hp
  exact ⟨_, _, rfl, rfl, .intro k b s.random.tail hstack hlive hst fun _ => rfl⟩

/-- An instruction that writes none of the three does the same in both machines. -/
theorem State.Alike.exec_of_unwritten (h : s.Alike parts t) {i : Instr}
    (hstack : .stack ∉ partsWritten i) (hst : .st ∉ partsWritten i)
    (hrandom : .random ∉ partsWritten i) :
    ∃ s' t', exec i s = .next s' ∧ exec i t = .next t' ∧ s'.Alike parts t' := by
  obtain ⟨k, b, bytes, hk, hlive, hb, hbytes⟩ := h
  obtain ⟨s', hs⟩ := exec_answers_next i s
  obtain ⟨hkKept, hspKept⟩ : s'.stack = s.stack ∧ s'.sp = s.sp := exec_onlyChanges hs .stack hstack
  have hbKept : s'.st = s.st := exec_onlyChanges hs .st hst
  have hbytesKept : s'.random = s.random := exec_onlyChanges hs .random hrandom
  refine ⟨s', _, hs, exec_withUnread hs hstack hst hrandom, .intro k b bytes ?_ ?_ ?_ ?_⟩
  · rwa [hkKept]
  · rwa [hkKept, hspKept]
  · rwa [hbKept]
  · rwa [hbytesKept]

/-- An instruction that draws no byte, or draws it from the same input, keeps two machines alike. -/
theorem State.Alike.exec (h : s.Alike parts t) {i : Instr}
    (hi : .random ∈ parts → .random ∉ partsWritten i) :
    ∃ s' t', exec i s = .next s' ∧ exec i t = .next t' ∧ s'.Alike parts t' := by
  cases i with
  | call nnn => exact h.call nnn
  | ret => exact h.ret
  | loadRand x nn => exact h.loadRand (fun hp => hi hp (by simp [partsWritten])) x nn
  | setSound x =>
    obtain ⟨k, b, bytes, hstack, hlive, hst, hrandom⟩ := h
    exact ⟨_, _, rfl, rfl, .intro k (s.reg x) bytes hstack hlive (fun _ => rfl) hrandom⟩
  | _ =>
    exact h.exec_of_unwritten (by simp [partsWritten]) (by simp [partsWritten])
      (by simp [partsWritten])

theorem State.Alike.tick (h : s.Alike parts t) : s.tick.Alike parts t.tick := by
  obtain ⟨k, b, bytes, hstack, hlive, hst, hrandom⟩ := h
  exact .intro k (tickTimer b) bytes hstack hlive (fun hp => congrArg tickTimer (hst hp)) hrandom

theorem State.Alike.latch (h : s.Alike parts t) (f : Fault) :
    (s.latch f).Alike parts (t.latch f) := by
  obtain ⟨k, b, bytes, hstack, hlive, hst, hrandom⟩ := h
  exact .intro k b bytes hstack hlive hst hrandom

/-- Machines that are alike come to the same case of a step, and their steps keep them alike. -/
theorem State.Alike.step (h : s.Alike parts t)
    (hi : .random ∈ parts → ∀ i, s.Executes i → .random ∉ partsWritten i) :
    ∃ s' t', step s = .next s' ∧ step t = .next t' ∧ s'.Alike parts t' := by
  have htick := h.tick
  obtain ⟨k, b, bytes, -, -, -, -⟩ := id h
  cases s.stepCase with
  | halted hf => exact ⟨_, _, step_halted s hf, step_halted (s.withUnread k b bytes) hf, h⟩
  | blocked r hf hw =>
    exact ⟨_, _, step_blocked s hf r hw, step_blocked (s.withUnread k b bytes) hf r hw, htick⟩
  | fails f hs =>
    have ht : (s.withUnread k b bytes).FailsFetch f := ⟨hs.running, hs.unblocked, hs.failed⟩
    exact ⟨_, _, step_of_failsFetch hs, step_of_failsFetch ht, htick.latch f⟩
  | executes i hs =>
    have ht : (s.withUnread k b bytes).Executes i :=
      ⟨hs.running, hs.unblocked, hs.fetchable, hs.decodes⟩
    rw [step_of_executes hs, step_of_executes ht]
    exact htick.exec fun hp => hi hp i hs

/-! ### The sound timer and the stack entries not in use -/

theorem alike_setSound (s : State) (b : Byte) : s.Alike [.st] (s.setSound b) :=
  .intro s.stack b s.random (fun _ => rfl) (fun _ _ => rfl) (by simp) fun _ => rfl

theorem State.Alike.eq_setSound (h : s.Alike [.st] t) : t = s.setSound t.st := by
  obtain ⟨k, b, bytes, hstack, -, -, hrandom⟩ := h
  obtain rfl := hstack (by simp)
  obtain rfl := hrandom (by simp)
  rfl

/-- Settles O26: a step keeps two machines alike but for ST. -/
theorem soundTimerIsNeverRead : Obligations.SoundTimerIsNeverRead := by
  unfold Obligations.SoundTimerIsNeverRead
  intro s b
  obtain ⟨t, u, ht, hu, halike⟩ := (alike_setSound s b).step (by simp)
  exact ⟨t, u, ht, hu, halike.eq_setSound⟩

theorem sameButDeadEntries_iff_alike : SameButDeadEntries s t ↔ s.Alike [.stack] t := by
  constructor
  · rintro ⟨hrest, hlive⟩
    rw [hrest]
    exact .intro t.stack s.st s.random (by simp) hlive (fun _ => rfl) fun _ => rfl
  · rintro ⟨k, b, bytes, -, hlive, hst, hrandom⟩
    obtain rfl := hst (by simp)
    obtain rfl := hrandom (by simp)
    exact ⟨rfl, hlive⟩

/-- Settles O27: a step keeps two machines alike but for stack entries that are not in use. -/
theorem deadStackEntriesAreUnobservable : Obligations.DeadStackEntriesAreUnobservable := by
  unfold Obligations.DeadStackEntriesAreUnobservable
  intro s t h
  simp only [sameButDeadEntries_iff_alike] at h ⊢
  exact h.step (by simp)

end Sys2Proof.Machine
end

section
/-!
PROOFS. Construct establishes the invariant (spec 70_reset_and_hazards.md R230, 10_state.md R34) and the
host's moves keep it, one at a time and in any history (47_controller.md R189).
-/

namespace Sys2Proof.Machine

variable {s t : State}

/-! ### After Construct -/

theorem loadBytes_wf (cfg : Config) {m : Memory} (a : Nat) (bytes : List Byte)
    (hm : memWf cfg m = true) : memWf cfg (loadBytes cfg a bytes m) = true := by
  induction bytes generalizing a m with
  | nil => exact hm
  | cons b bs ih => exact ih (a + 1) (memWrite_wf cfg a b hm)

theorem initial_inv {cfg : Config} (h : cfg.pcReset.toNat ≤ 0x10FE) : (State.initial cfg).Inv where
  pc_le := h
  entries_le k hk := absurd hk (Nat.not_lt_zero k.val)
  halted_not_waiting _ := rfl
  mem_ok := rfl

/-- R230: a constructed machine is the initial one with its image copied into memory. -/
theorem construct_inv {cfg : Config} {image : List Byte} (h : construct cfg image = .next s) :
    s = { State.initial cfg with mem := loadBytes cfg progBase image [] } := by
  unfold construct at h
  split at h
  · cases h
  · exact (Host.Outcome.next.inj h).symm

theorem constructed_inv {cfg : Config} {image : List Byte} (hpc : cfg.pcReset.toNat ≤ 0x10FE)
    (h : construct cfg image = .next s) : s.Inv := by
  have hinit := initial_inv hpc
  rw [construct_inv h]
  exact ⟨hinit.pc_le, hinit.entries_le, hinit.halted_not_waiting, loadBytes_wf cfg _ _ hinit.mem_ok⟩

/-- Settles O19: reset is the initial state under the default parameters. -/
theorem resetMeetsInvariant : Obligations.ResetMeetsInvariant := by
  unfold Obligations.ResetMeetsInvariant
  exact initial_inv (by decide)

/-! ### What a step and every input of the host keep, every history keeps -/

/-- `P` is kept by a step and by each thing the host's moves do to the state. -/
structure KeptByHost (P : State → Prop) : Prop where
  step : ∀ {s t : State}, P s → step s = .next t → P t
  setRandom : ∀ {s : State} (bytes : List Byte), P s → P (s.setRandom bytes)
  setKey : ∀ {s : State} (k : Nibble) (b : Bool), P s → P (s.setKey k b)
  pressKey : ∀ {s : State} (k : Nibble), P s → P (pressKey k s)

section

variable {P : State → Prop} (hP : KeptByHost P)
include hP

theorem KeptByHost.runCycle {n : Nat} (hs : P s) (h : runCycle n s = .next t) : P t := by
  induction n generalizing s with
  | zero => exact of_next h hs
  | succ n ih =>
    obtain ⟨u, hu⟩ := step_answers_next s
    rw [runCycle_succ_of_step hu] at h
    exact ih (hP.step hs hu) h

theorem KeptByHost.stepWith {r : Byte} (hs : P s) (h : stepWith r s = .next t) : P t := by
  obtain ⟨u, hu⟩ := step_answers_next (s.setRandom [r])
  rw [stepWith_of_step hu] at h
  exact of_next h (hP.setRandom s.random (hP.step (hP.setRandom [r] hs) hu))

theorem KeptByHost.runCycleWith {bytes : List Byte} (hs : P s)
    (h : runCycleWith bytes s = .next t) : P t := by
  induction bytes generalizing s with
  | nil => exact of_next h hs
  | cons r rs ih =>
    obtain ⟨u, hu⟩ := stepWith_answers_next r s
    rw [runCycleWith_cons_of_stepWith hu] at h
    exact ih (hP.stepWith hs hu) h

theorem KeptByHost.keyPress {k : Nat} (hs : P s) (h : keyPress k s = .next t) : P t := by
  unfold Machine.keyPress at h
  split at h
  · exact of_next h (hP.pressKey _ hs)
  · cases h

theorem KeptByHost.keyRelease {k : Nat} (hs : P s) (h : keyRelease k s = .next t) : P t := by
  unfold Machine.keyRelease at h
  split at h
  · exact of_next h (hP.setKey _ _ hs)
  · cases h

theorem KeptByHost.performMove {m : HostMove} (hs : P s) (h : performMove m s = .next t) : P t := by
  cases m with
  | runCycle n => exact hP.runCycle hs h
  | runCycleWith bytes => exact hP.runCycleWith hs h
  | keyPress k => exact hP.keyPress hs h
  | keyRelease k => exact hP.keyRelease hs h
  | readFramebuffer => exact of_next h hs
  | supplyRandom bytes => exact of_next h (hP.setRandom (s.random ++ bytes) hs)

theorem KeptByHost.performMoves {moves : List HostMove} (hs : P s)
    (h : performMoves moves s = .next t) : P t := by
  induction moves generalizing s with
  | nil => exact of_next h hs
  | cons m ms ih =>
    cases hm : Machine.performMove m s with
    | next u =>
      rw [Machine.performMoves, hm] at h
      exact ih (hP.performMove hs hm) h
    | fault f =>
      rw [Machine.performMoves, hm] at h
      cases h
    | refused r =>
      rw [Machine.performMoves, hm] at h
      cases h

end

/-! ### The invariant and the parameters -/

theorem pressKey_of_not_waiting (k : Nibble) (hw : s.wait = none) :
    pressKey k s = s.setKey k true := by
  rw [pressKey, hw]

theorem pressKey_of_waiting (k : Nibble) {r : Nibble} (hw : s.wait = some r) :
    pressKey k s = ((s.setKey k true).setReg r (k.setWidth 8)).setWait none := by
  rw [pressKey, hw]

theorem State.Inv.pressKey (h : s.Inv) (k : Nibble) : (pressKey k s).Inv := by
  cases hw : s.wait with
  | none =>
    rw [pressKey_of_not_waiting k hw]
    exact h.update h.pc_le
  | some r =>
    rw [pressKey_of_waiting k hw]
    exact State.Inv.setWait_none (h.update h.pc_le)

theorem inv_keptByHost : KeptByHost State.Inv where
  step := State.Inv.step
  setRandom _ h := h.update h.pc_le
  setKey _ _ h := h.update h.pc_le
  pressKey k h := h.pressKey k

theorem pressKey_cfg (k : Nibble) (s : State) : (pressKey k s).cfg = s.cfg := by
  cases hw : s.wait with
  | none => rw [pressKey_of_not_waiting k hw, setKey_cfg]
  | some r => rw [pressKey_of_waiting k hw, setWait_cfg, setReg_cfg, setKey_cfg]

theorem cfg_not_mem_partsWritten (i : Instr) : .cfg ∉ partsWritten i := by
  cases i <;> simp [partsWritten]

theorem step_cfg (h : step s = .next t) : t.cfg = s.cfg :=
  step_elim (P := fun u => u.cfg = s.cfg) h (fun _ => rfl) (fun _ => rfl) (fun _ _ => rfl)
    fun i _ he => exec_onlyChanges he .cfg (cfg_not_mem_partsWritten i)

theorem cfg_keptByHost (cfg : Config) : KeptByHost fun s => s.cfg = cfg where
  step hs h := (step_cfg h).trans hs
  setRandom _ hs := hs
  setKey _ _ hs := hs
  pressKey k hs := (pressKey_cfg k _).trans hs

/-- Settles O20: by the one induction over histories, for the invariant and for the parameters. -/
theorem historiesKeepInvariant : Obligations.HistoriesKeepInvariant := by
  unfold Obligations.HistoriesKeepInvariant
  refine ⟨fun _ _ _ => inv_keptByHost.performMove, fun cfg image moves s t hpc hs ht => ⟨?_, ?_⟩⟩
  · exact inv_keptByHost.performMoves (constructed_inv hpc hs) ht
  · exact (cfg_keptByHost cfg).performMoves (by rw [construct_inv hs]; rfl) ht

/-! ### The state after reset -/

/-- Settles O59: field by field, memory by what an unlisted byte reads as. -/
theorem resetState : Obligations.ResetState := by
  unfold Obligations.ResetState
  refine ⟨fun r => ?_, rfl, rfl, rfl, fun k => ?_, rfl, rfl, fun k => ?_, rfl, rfl,
    fbPixel_blankFb, fun a ha => dif_pos ha, fun a ha => dif_neg (Nat.not_lt.2 ha)⟩
  · simp [State.reg, State.reset, State.initial]
  · simp [State.reset, State.initial]
  · simp [State.key, State.reset, State.initial]

end Sys2Proof.Machine
end

section
/-!
PROOFS. The random input (spec 10_state.md R33, 43_load_move_random.md R142, decision D28): who draws from
it, what a draw leaves, and what a batch draws.
-/

namespace Sys2Proof.Machine

variable {s t : State} {x : Nibble} {nn r : Byte}

/-! ### A step that draws -/

/-- R142: the step that executes LoadRand draws one byte. -/
theorem step_of_executes_loadRand (h : s.Executes (.loadRand x nn)) :
    step s = .next (loadRandWith s.nextRandom x nn s.tick) :=
  step_of_executes h

theorem loadRandWith_reg (r : Byte) (x : Nibble) (nn : Byte) (s : State) :
    (loadRandWith r x nn s).reg x = r &&& nn :=
  setReg_reg_same s.takeRandom x (r &&& nn)

/-- R33: a step draws the next supplied byte. -/
theorem step_draws_supplied {rest : List Byte} (h : s.Executes (.loadRand x nn))
    (hs : s.random = r :: rest) :
    ∃ t, step s = .next t ∧ t.reg x = r &&& nn ∧ t.random = rest := by
  refine ⟨_, step_of_executes_loadRand h, ?_, ?_⟩
  · rw [loadRandWith_reg, nextRandom_cons s r rest hs]
  · show s.random.tail = rest
    rw [hs, List.tail_cons]

/-- R142: a step given its byte draws that byte and leaves the supplied ones. -/
theorem stepWith_draws_argument (r : Byte) (h : s.Executes (.loadRand x nn)) :
    ∃ t, stepWith r s = .next t ∧ t.reg x = r &&& nn ∧ t.random = s.random := by
  have hr : (s.setRandom [r]).Executes (.loadRand x nn) :=
    ⟨h.running, h.unblocked, h.fetchable, h.decodes⟩
  obtain ⟨u, hu, hreg, -⟩ := step_draws_supplied hr (setRandom_random s [r])
  exact ⟨_, stepWith_of_step hu, hreg, rfl⟩

/-! ### A step that does not -/

/-- LoadRand alone writes the random input, its count or its bytes. -/
theorem loadRand_of_input_written {i : Instr}
    (h : .draws ∈ partsWritten i ∨ .random ∈ partsWritten i) : ∃ x nn, i = .loadRand x nn := by
  cases i with
  | loadRand x nn => exact ⟨x, nn, rfl⟩
  | _ => simp [partsWritten] at h

section

variable (hno : ∀ x nn, ¬s.Executes (.loadRand x nn))
include hno

theorem input_unwritten_of_no_loadRand {i : Instr} (hs : s.Executes i) :
    .draws ∉ partsWritten i ∧ .random ∉ partsWritten i := by
  refine not_or.1 fun hin => ?_
  obtain ⟨x, nn, rfl⟩ := loadRand_of_input_written hin
  exact hno x nn hs

theorem step_keeps_input (h : step s = .next t) : t.draws = s.draws ∧ t.random = s.random :=
  step_elim (P := fun u => u.draws = s.draws ∧ u.random = s.random) h (fun _ => ⟨rfl, rfl⟩)
    (fun _ => ⟨rfl, rfl⟩) (fun _ _ => ⟨rfl, rfl⟩) fun i hs he => by
      obtain ⟨hdraws, hrandom⟩ := input_unwritten_of_no_loadRand hno hs
      exact ⟨exec_onlyChanges he .draws hdraws, exec_onlyChanges he .random hrandom⟩

/-- D28: a step that draws no byte does not depend on the one it is given. -/
theorem stepWith_eq_step (r : Byte) : stepWith r s = step s := by
  have halike : s.Alike [.random] (s.setRandom [r]) :=
    .intro s.stack s.st [r] (fun _ => rfl) (fun _ _ => rfl) (fun _ => rfl) (by simp)
  obtain ⟨t, u, ht, hu, htu⟩ :=
    halike.step fun _ i hs => (input_unwritten_of_no_loadRand hno hs).2
  obtain ⟨k, b, bytes, hstack, -, hst, -⟩ := htu
  obtain rfl := hstack (by simp)
  obtain rfl := hst (by simp)
  rw [stepWith_of_step hu, ht, ← (step_keeps_input hno ht).2]
  rfl

end

/-! ### A batch -/

/-- R33: a step draws at most one byte, the first. -/
theorem step_draws_at_most_one (h : step s = .next t) :
    ∃ k ≤ 1, t.draws = s.draws + k ∧ t.random = s.random.drop k := by
  by_cases hdraw : ∃ x nn, s.Executes (.loadRand x nn)
  · obtain ⟨x, nn, hs⟩ := hdraw
    cases (step_of_executes_loadRand hs).symm.trans h
    exact ⟨1, le_rfl, rfl, List.drop_one.symm⟩
  · obtain ⟨hdraws, hrandom⟩ := step_keeps_input (fun x nn hs => hdraw ⟨x, nn, hs⟩) h
    exact ⟨0, Nat.zero_le 1, hdraws, hrandom⟩

theorem runCycle_draws_in_order {n : Nat} (h : runCycle n s = .next t) :
    ∃ k ≤ n, t.draws = s.draws + k ∧ t.random = s.random.drop k := by
  induction n generalizing s with
  | zero =>
    cases h
    exact ⟨0, le_rfl, rfl, rfl⟩
  | succ n ih =>
    obtain ⟨u, hu⟩ := step_answers_next s
    rw [runCycle_succ_of_step hu] at h
    obtain ⟨j, hj, hdraws, hrandom⟩ := step_draws_at_most_one hu
    obtain ⟨k, hk, hdraws', hrandom'⟩ := ih h
    refine ⟨j + k, by omega, by omega, ?_⟩
    rw [hrandom', hrandom, List.drop_drop]

/-! ### Supplying bytes -/

theorem onlyChanges_supplyRandom (bytes : List Byte) :
    OnlyChanges [.random] s (s.supplyRandom bytes) :=
  fun p hp => by
    have hkept := Part.same_refl p s
    cases p with
    | random => exact absurd (List.mem_singleton_self _) hp
    | _ => exact hkept

/-- Settles O43: clause by clause, by what an executed LoadRand draws, by the two machines that are alike
but for the random input, and by induction on the batch. -/
theorem injectedBytesAreDrawnInOrder : Obligations.InjectedBytesAreDrawnInOrder := by
  unfold Obligations.InjectedBytesAreDrawnInOrder
  refine ⟨fun s x nn r h => ⟨fun rest => step_draws_supplied h, stepWith_draws_argument r h⟩,
    fun s r hno => ⟨stepWith_eq_step hno r, ?_⟩, fun n s t h => ?_,
    fun bytes s => ⟨_, rfl, rfl, rfl, onlyChanges_supplyRandom bytes⟩⟩
  · obtain ⟨t, ht⟩ := step_answers_next s
    obtain ⟨hdraws, hrandom⟩ := step_keeps_input hno ht
    exact ⟨t, ht, hrandom, hdraws⟩
  · obtain ⟨k, hk, hdraws, hrandom⟩ := runCycle_draws_in_order h
    refine ⟨by omega, by omega, ?_⟩
    rw [hrandom, hdraws, Nat.add_sub_cancel_left]

end Sys2Proof.Machine
end

section
/-!
PROOFS. The decoder reads an encoded instruction back (spec 30_encoding.md R83).
-/

namespace Sys2Proof

/-- R74 on the word of R83, format by format: the fields of the word are the operands, and the fixed ones
select the arm. -/
theorem decodeOption_encode (strict : Bool) (i : Instr) : decodeOption strict (encode i) = some i := by
  cases i with
  | clearScreen | ret => cases strict <;> rfl
  | jump nnn | call nnn | loadIndex nnn | jumpIndexed nnn =>
    simp [encode, decodeOption, fields_nnn]
  | skipEqImm x nn | skipNeImm x nn | loadImm x nn | addImm x nn | loadRand x nn =>
    simp [encode, decodeOption, fields_xnn]
  | skipEqReg x y | skipNeReg x y =>
    simp [encode, decodeOption, decodeRegPair, fields_xyn]
  | move x y | or x y | and x y | xor x y | add x y | sub x y | shiftRight x y | subRev x y
  | shiftLeft x y =>
    simp [encode, decodeOption, decodeTop8, fields_xyn]
  | draw x y n => simp [encode, decodeOption, fields_xyn]
  | skipKeyPressed x | skipKeyNotPressed x =>
    simp [encode, decodeOption, decodeTopE, fields_xnn]
  | loadDelay x | waitForKey x | setDelay x | setSound x | addIndex x | loadFont x | storeBCD x
  | regDump x | regLoad x =>
    simp [encode, decodeOption, decodeTopF, fields_xnn]

/-- R83: encoding and decoding is the identity, with DEC_STRICT on or off. -/
theorem decode_encode (strict : Bool) (i : Instr) : decode strict (encode i) = .ok i :=
  (decode_ok_iff strict _ i).2 (decodeOption_encode strict i)

/-- R52, R71: a word is its high byte and its low byte put together. -/
theorem wordOfBytes_bytes (w : Word) :
    wordOfBytes (w.extractLsb' 8 8) (w.extractLsb' 0 8) = w := by
  have hw := w.isLt
  refine BitVec.eq_of_toNat_eq ?_
  rw [wordOfBytes_toNat, field_toNat, field_toNat]
  omega

end Sys2Proof
end

section
/-!
PROOFS. The memory (spec 20_memory.md): a read gives the last byte written (R55, R59), the list in canonical
form is determined by its reads, the fetch is big-endian and checked (R52, R54), and a word placed at PC is
the one executed next (R61).
-/

namespace Sys2Proof.Machine

/-! ### A canonical list is determined by its reads -/

section

variable {cfg : Config} {lo lo' : Nat} {c d : Host.Cell} {m n : Memory}

theorem memRead_cons_same (cfg : Config) (c : Host.Cell) (m : Memory) :
    memRead cfg (c :: m) c.1 = c.2 :=
  if_pos rfl

theorem memRead_cons_ne {a : Nat} (h : c.1 ≠ a) : memRead cfg (c :: m) a = memRead cfg m a :=
  if_neg h

theorem memRead_head_ne_unlisted (hm : memWfFrom cfg lo (c :: m) = true) :
    memRead cfg (c :: m) c.1 ≠ unlisted cfg c.1 := by
  obtain ⟨-, -, hlisted, -⟩ := (memWfFrom_cons cfg lo c m).1 hm
  rwa [memRead_cons_same]

/-- Where two canonical lists read alike, the second starts no later than the first: below its first
address it would read as unlisted. -/
theorem head_address_le (hm : memWfFrom cfg lo (c :: m) = true)
    (hn : memWfFrom cfg lo' (d :: n) = true)
    (h : ∀ a ≤ 4095, memRead cfg (c :: m) a = memRead cfg (d :: n) a) : d.1 ≤ c.1 := by
  obtain ⟨-, hc, -, -⟩ := (memWfFrom_cons cfg lo c m).1 hm
  obtain ⟨-, hd⟩ := (memWfFrom_cons cfg lo' d n).1 hn
  have hfrom : memWfFrom cfg d.1 (d :: n) = true := (memWfFrom_cons cfg d.1 d n).2 ⟨le_rfl, hd⟩
  by_contra hlt
  refine memRead_head_ne_unlisted hm ?_
  rw [h c.1 (by omega), memRead_below cfg hfrom (by omega)]

/-- Canonical lists that start at one address and read alike have tails that read alike: past the head the
tail is read, and up to it a canonical tail lists nothing. -/
theorem tail_reads_alike (hm : memWfFrom cfg lo (c :: m) = true)
    (hn : memWfFrom cfg lo' (d :: n) = true) (haddr : c.1 = d.1)
    (h : ∀ a ≤ 4095, memRead cfg (c :: m) a = memRead cfg (d :: n) a) :
    ∀ a ≤ 4095, memRead cfg m a = memRead cfg n a := by
  obtain ⟨-, -, -, hm⟩ := (memWfFrom_cons cfg lo c m).1 hm
  obtain ⟨-, -, -, hn⟩ := (memWfFrom_cons cfg lo' d n).1 hn
  intro a ha
  by_cases hca : c.1 = a
  · rw [memRead_below cfg hm (by omega), memRead_below cfg hn (by omega)]
  · rw [← memRead_cons_ne hca, h a ha, memRead_cons_ne (haddr ▸ hca)]

theorem memory_ext (hm : memWfFrom cfg lo m = true) (hn : memWfFrom cfg lo' n = true)
    (h : ∀ a ≤ 4095, memRead cfg m a = memRead cfg n a) : m = n := by
  induction m generalizing n lo lo' with
  | nil =>
    cases n with
    | nil => rfl
    | cons d n =>
      obtain ⟨-, hd, -, -⟩ := (memWfFrom_cons cfg lo' d n).1 hn
      exact absurd (h d.1 (by omega)).symm (memRead_head_ne_unlisted hn)
  | cons c m ih =>
    obtain ⟨-, hc, -, hm'⟩ := (memWfFrom_cons cfg lo c m).1 hm
    cases n with
    | nil => exact absurd (h c.1 (by omega)) (memRead_head_ne_unlisted hm)
    | cons d n =>
      obtain ⟨-, -, -, hn'⟩ := (memWfFrom_cons cfg lo' d n).1 hn
      have haddr : c.1 = d.1 :=
        le_antisymm (head_address_le hn hm fun a ha => (h a ha).symm) (head_address_le hm hn h)
      have hbyte : c.2 = d.2 := by
        rw [← memRead_cons_same cfg c m, h c.1 (by omega), haddr, memRead_cons_same]
      have htail : m = n := ih hm' hn' (tail_reads_alike hm hn haddr h)
      rw [Prod.ext haddr hbyte, htail]

end

variable {s : State}

/-- Settles O21: by the laws of a write, and for the canonical form by induction on the two lists. -/
theorem memoryReadsLastWrite : Obligations.MemoryReadsLastWrite := by
  unfold Obligations.MemoryReadsLastWrite
  refine ⟨fun s a b hs ha => ⟨poke_peek_same s b hs (by omega), poke_memWf s a b hs⟩,
    fun s a c b hne => poke_peek_ne s b hne, fun s t hs ht hcfg hread => ?_⟩
  unfold State.MemOk at hs
  unfold State.peek at hread
  rw [hcfg] at hs hread
  exact memory_ext hs ht hread

/-! ### The fetch -/

/-- R182, R54: the step of a running machine whose word is not all inside memory. -/
theorem step_of_fetch_outOfRange (hf : s.fault = none) (hw : s.wait = none)
    (hpc : 4095 ≤ s.pc.toNat) :
    step s = .next { s.tick with fault := some (.outOfRange .mem (max s.pc.toNat 4096)) } := by
  have hfetch := fetch_error s (by omega)
  rw [step_of_failsFetch ⟨hf, hw, .inl hfetch⟩, latch_eq s.tick _ hf]

/-- Settles O8: by the two cases of the range check, the first address above 4095 being the larger of PC and
4096. -/
theorem fetchBigEndianOrOutOfRange : Obligations.FetchBigEndianOrOutOfRange := by
  unfold Obligations.FetchBigEndianOrOutOfRange
  refine ⟨fun s hs => ?_, fun s hf hw hpc => ?_, fun s hf hw hpc => ?_⟩
  · have hpc : s.pc.toNat + 1 ≤ 4095 := hs
    exact ⟨_, fetch_ok s (by omega), wordOfBytes_toNat _ _⟩
  · rw [step_of_fetch_outOfRange hf hw hpc.ge, hpc]
    rfl
  · rw [step_of_fetch_outOfRange hf hw (by omega), max_eq_left hpc]

/-! ### A word placed at PC -/

theorem withFetchWord_eq_placeWord (s : State) (w : Word) : s.withFetchWord 16 w.toNat = placeWord s w := by
  rw [State.withFetchWord, Nat.mod_eq_of_lt w.isLt, BitVec.ofNat_toNat, BitVec.setWidth_eq]

theorem placeWord_peek_high (w : Word) (hm : s.MemOk) (hpc : s.Fetchable) :
    (placeWord s w).peek s.pc.toNat = w.extractLsb' 8 8 := by
  have hpc : s.pc.toNat + 1 ≤ 4095 := hpc
  exact (poke_peek_ne _ _ (by omega)).trans (poke_peek_same s _ hm (by omega))

theorem placeWord_peek_low (w : Word) (hm : s.MemOk) (hpc : s.Fetchable) :
    (placeWord s w).peek (s.pc.toNat + 1) = w.extractLsb' 0 8 := by
  have hpc : s.pc.toNat + 1 ≤ 4095 := hpc
  exact poke_peek_same _ _ (poke_memWf s _ _ hm) (by omega)

/-- R52: in a canonical memory the word at PC is the one placed there. -/
theorem placeWord_wordAtPc (w : Word) (hm : s.MemOk) (hpc : s.Fetchable) :
    (placeWord s w).wordAtPc = w :=
  calc (placeWord s w).wordAtPc
      = wordOfBytes ((placeWord s w).peek s.pc.toNat) ((placeWord s w).peek (s.pc.toNat + 1)) := rfl
    _ = wordOfBytes (w.extractLsb' 8 8) (w.extractLsb' 0 8) := by
      rw [placeWord_peek_high w hm hpc, placeWord_peek_low w hm hpc]
    _ = w := wordOfBytes_bytes w

theorem placeWord_executes (i : Instr) (hm : s.MemOk) (hpc : s.Fetchable) :
    (placeWord s (encode i)).Executes i where
  running := rfl
  unblocked := rfl
  fetchable := hpc
  decodes := by rw [placeWord_wordAtPc _ hm hpc, decode_encode]

theorem placeWord_memKeptOutside (s : State) (w : Word) :
    MemKeptOutside s.pc.toNat 2 s (placeWord s w) := fun a ha => by
  have hhigh : a ≠ s.pc.toNat := by omega
  have hlow : a ≠ s.pc.toNat + 1 := by omega
  exact (poke_peek_ne _ _ hlow).trans (poke_peek_ne s _ hhigh)

theorem onlyChanges_placeWord (s : State) (w : Word) :
    OnlyChanges [.mem, .wait, .fault] s (placeWord s w) := fun p hp => by
  have hkept := Part.same_refl p s
  cases p with
  | mem | wait | fault => simp at hp
  | _ => exact hkept

/-- Settles O22: the placed word is the word at PC, and the decoder reads the instruction back from it. -/
theorem placedWordIsExecuted : Obligations.PlacedWordIsExecuted := by
  unfold Obligations.PlacedWordIsExecuted
  intro s i hm hpc
  rw [withFetchWord_eq_placeWord]
  exact ⟨step_of_executes (placeWord_executes i hm hpc), rfl, placeWord_memKeptOutside s _,
    onlyChanges_placeWord s _⟩

end Sys2Proof.Machine
end

section
/-!
PROOFS. The decoder on words the encoder need not have written (spec 30_encoding.md R74, R78, R79): what
DEC_STRICT rejects, that a canonical word is the encoding of what it decodes to (R83), and which words fail.
-/

namespace Sys2Proof

open Machine

variable {strict : Bool} {w : Word} {i : Instr} {p : Nibble} {k : Nat}

/-! ### A word is its fields put together (R71) -/

theorem word_of_nib0_nnn (hp : nib0 w = p) : p ++ low12 w = w := by
  subst hp
  refine BitVec.eq_of_toNat_eq ((word_nnn_toNat _ _).trans ?_)
  rw [nib0_toNat, low12_toNat]
  omega

theorem word_of_nib0_xnn (hp : nib0 w = p) : p ++ nib1 w ++ lowByte w = w := by
  subst hp
  refine BitVec.eq_of_toNat_eq ((word_xnn_toNat _ _ _).trans ?_)
  rw [nib0_toNat, nib1_toNat, lowByte_toNat]
  omega

theorem word_of_nib0_xyn (hp : nib0 w = p) : p ++ nib1 w ++ nib2 w ++ nib3 w = w := by
  subst hp
  refine BitVec.eq_of_toNat_eq ((word_xyn_toNat _ _ _ _).trans ?_)
  rw [nib0_toNat, nib1_toNat, nib2_toNat, nib3_toNat]
  omega

/-- Format X, the low byte as the decoder's arms give it. -/
theorem word_of_nib0_lowByte (hp : nib0 w = p) (hk : (lowByte w).toNat = k) :
    p ++ nib1 w ++ BitVec.ofNat 8 k = w := by
  rw [← hk, BitVec.ofNat_toNat, BitVec.setWidth_eq, word_of_nib0_xnn hp]

/-- Format XY, the bottom nibble as the decoder's arms give it. -/
theorem word_of_nib0_nib3 (hp : nib0 w = p) (hk : (nib3 w).toNat = k) :
    p ++ nib1 w ++ nib2 w ++ BitVec.ofNat 4 k = w := by
  rw [← hk, BitVec.ofNat_toNat, BitVec.setWidth_eq, word_of_nib0_xyn hp]

/-! ### The dispatch on the top nibble (R74) -/

/-- R74: the top nibbles under which a further field is examined. -/
def secondaryTops : List Nibble := [0x0, 0x5, 0x8, 0x9, 0xE, 0xF]

theorem mem_secondaryTops {n : Nibble} :
    n ∈ secondaryTops ↔ n = 0x0 ∨ n = 0x5 ∨ n = 0x8 ∨ n = 0x9 ∨ n = 0xE ∨ n = 0xF := by
  simp [secondaryTops]

theorem decodeOption_top0 (h : nib0 w = 0x0) : decodeOption strict w = decodeTop0 strict w := by
  simp [decodeOption, h]

theorem decodeOption_top5 (h : nib0 w = 0x5) :
    decodeOption strict w = decodeRegPair strict .skipEqReg w := by
  simp [decodeOption, h]

theorem decodeOption_top8 (h : nib0 w = 0x8) : decodeOption strict w = decodeTop8 w := by
  simp [decodeOption, h]

theorem decodeOption_top9 (h : nib0 w = 0x9) :
    decodeOption strict w = decodeRegPair strict .skipNeReg w := by
  simp [decodeOption, h]

theorem decodeOption_topE (h : nib0 w = 0xE) : decodeOption strict w = decodeTopE w := by
  simp [decodeOption, h]

theorem decodeOption_topF (h : nib0 w = 0xF) : decodeOption strict w = decodeTopF w := by
  simp [decodeOption, h]

/-- R74: under any other top nibble every word is the encoding of an instruction. -/
theorem exists_encode_eq (h : nib0 w ∉ secondaryTops) : ∃ i, encode i = w := by
  have hcases : ∀ n : Nibble, n ∉ secondaryTops →
      n = 0x1 ∨ n = 0x2 ∨ n = 0x3 ∨ n = 0x4 ∨ n = 0x6 ∨ n = 0x7 ∨ n = 0xA ∨ n = 0xB ∨ n = 0xC ∨
        n = 0xD := by
    decide
  rcases hcases _ h with h | h | h | h | h | h | h | h | h | h
  · exact ⟨.jump _, word_of_nib0_nnn h⟩
  · exact ⟨.call _, word_of_nib0_nnn h⟩
  · exact ⟨.skipEqImm _ _, word_of_nib0_xnn h⟩
  · exact ⟨.skipNeImm _ _, word_of_nib0_xnn h⟩
  · exact ⟨.loadImm _ _, word_of_nib0_xnn h⟩
  · exact ⟨.addImm _ _, word_of_nib0_xnn h⟩
  · exact ⟨.loadIndex _, word_of_nib0_nnn h⟩
  · exact ⟨.jumpIndexed _, word_of_nib0_nnn h⟩
  · exact ⟨.loadRand _ _, word_of_nib0_xnn h⟩
  · exact ⟨.draw _ _ _, word_of_nib0_xyn h⟩

/-- Settles O1: the decoder is run on each word. -/
theorem sampleWordsDecode : Obligations.SampleWordsDecode :=
  ⟨rfl, rfl, rfl, rfl, rfl, rfl, rfl, rfl, rfl, rfl, rfl⟩

/-! ### DEC_STRICT (R78) -/

/-- R74, top nibble 0, the second nibble not examined. -/
theorem decodeTop0_false_cases (w : Word) :
    lowByte w = 0xE0 ∧ decodeTop0 false w = some .clearScreen ∨
      lowByte w = 0xEE ∧ decodeTop0 false w = some .ret ∨
      lowByte w ≠ 0xE0 ∧ lowByte w ≠ 0xEE ∧ decodeTop0 false w = none := by
  simp only [decodeTop0, Bool.false_and, Bool.false_eq_true, if_false]
  split
  case h_1 hb => exact .inl ⟨BitVec.eq_of_toNat_eq hb, rfl⟩
  case h_2 hb => exact .inr (.inl ⟨BitVec.eq_of_toNat_eq hb, rfl⟩)
  case h_3 hcls hret =>
    exact .inr (.inr ⟨fun hb => hcls (by rw [hb]; rfl), fun hb => hret (by rw [hb]; rfl), rfl⟩)

theorem decodeTop0_of_nib1_eq_zero (h : nib1 w = 0x0) :
    decodeTop0 strict w = decodeTop0 false w := by
  simp [decodeTop0, h]

theorem decodeTop0_true_of_nib1_ne_zero (h : nib1 w ≠ 0x0) : decodeTop0 true w = none :=
  if_pos (by simpa using h)

section

variable (mk : Nibble → Nibble → Instr)

@[simp] theorem decodeRegPair_false (w : Word) :
    decodeRegPair false mk w = some (mk (nib1 w) (nib2 w)) :=
  rfl

theorem decodeRegPair_of_nib3_eq_zero (h : nib3 w = 0x0) :
    decodeRegPair strict mk w = some (mk (nib1 w) (nib2 w)) := by
  simp [decodeRegPair, h]

theorem decodeRegPair_true_of_nib3_ne_zero (h : nib3 w ≠ 0x0) : decodeRegPair true mk w = none :=
  if_pos (by simpa using h)

end

theorem not_canonicalWord_iff :
    ¬CanonicalWord w ↔
      nib0 w = 0x0 ∧ nib1 w ≠ 0x0 ∨ (nib0 w = 0x5 ∨ nib0 w = 0x9) ∧ nib3 w ≠ 0x0 := by
  unfold CanonicalWord
  tauto

/-- R78: the spare bits are examined by two of the decoders, and there a canonical word has them zero. -/
theorem decodeOption_of_canonicalWord (hc : CanonicalWord w) :
    decodeOption strict w = decodeOption false w := by
  obtain ⟨hz, hxy⟩ := hc
  have hpair {mk : Nibble → Nibble → Instr} (hp : nib0 w = 0x5 ∨ nib0 w = 0x9) :
      decodeRegPair strict mk w = decodeRegPair false mk w :=
    decodeRegPair_of_nib3_eq_zero mk (hxy hp)
  unfold decodeOption
  split
  case h_1 hp => exact decodeTop0_of_nib1_eq_zero (hz (BitVec.eq_of_toNat_eq hp))
  case h_6 hp => exact hpair (.inl (BitVec.eq_of_toNat_eq hp))
  case h_10 hp => exact hpair (.inr (BitVec.eq_of_toNat_eq hp))
  all_goals rfl

/-- R78: with DEC_STRICT those two decoders reject a word whose spare bits are not zero. -/
theorem decodeOption_true_of_not_canonicalWord (hc : ¬CanonicalWord w) :
    decodeOption true w = none := by
  obtain ⟨h, hspare⟩ | ⟨h | h, hspare⟩ := not_canonicalWord_iff.1 hc
  · rw [decodeOption_top0 h, decodeTop0_true_of_nib1_ne_zero hspare]
  · rw [decodeOption_top5 h, decodeRegPair_true_of_nib3_ne_zero _ hspare]
  · rw [decodeOption_top9 h, decodeRegPair_true_of_nib3_ne_zero _ hspare]

/-- Settles O6: the two lemmas on DEC_STRICT, and for the spare nibbles the fields of the four forms. -/
theorem strictDecoding : Obligations.StrictDecoding := by
  unfold Obligations.StrictDecoding
  refine ⟨fun w hc => ?_, fun w hc => ?_, fun x y n => ?_, fun x y n => ?_, fun x => ?_, fun x => ?_⟩
  · rw [decode, decode, decodeOption_of_canonicalWord hc]
  · exact (decode_error_iff _ _).2 (decodeOption_true_of_not_canonicalWord hc)
  · obtain ⟨hp, hx, hy, -⟩ := fields_xyn 0x5#4 x y n
    rw [decode_ok_iff, decodeOption_top5 hp, decodeRegPair_false, hx, hy]
  · obtain ⟨hp, hx, hy, -⟩ := fields_xyn 0x9#4 x y n
    rw [decode_ok_iff, decodeOption_top9 hp, decodeRegPair_false, hx, hy]
  · obtain ⟨hp, -, hb⟩ := fields_xnn 0x0#4 x 0xE0#8
    simp [decode_ok_iff, decodeOption_top0 hp, decodeTop0, hb]
  · obtain ⟨hp, -, hb⟩ := fields_xnn 0x0#4 x 0xEE#8
    simp [decode_ok_iff, decodeOption_top0 hp, decodeTop0, hb]

/-! ### Encoding what was decoded (R83) -/

theorem encode_of_decodeTop0 (hp : nib0 w = 0x0) (hx : nib1 w = 0x0)
    (h : decodeTop0 false w = some i) : encode i = w := by
  have hw := word_of_nib0_xnn hp
  rw [hx] at hw
  obtain ⟨hb, hd⟩ | ⟨hb, hd⟩ | ⟨-, -, hd⟩ := decodeTop0_false_cases w <;> cases hd.symm.trans h <;>
    rw [hb] at hw <;> exact hw

theorem encode_of_decodeTop8 (hp : nib0 w = 0x8) (h : decodeTop8 w = some i) : encode i = w := by
  unfold decodeTop8 at h
  split at h <;> cases h <;> exact word_of_nib0_nib3 hp ‹_›

theorem encode_of_decodeTopE (hp : nib0 w = 0xE) (h : decodeTopE w = some i) : encode i = w := by
  unfold decodeTopE at h
  split at h <;> cases h <;> exact word_of_nib0_lowByte hp ‹_›

theorem encode_of_decodeTopF (hp : nib0 w = 0xF) (h : decodeTopF w = some i) : encode i = w := by
  unfold decodeTopF at h
  split at h <;> cases h <;> exact word_of_nib0_lowByte hp ‹_›

/-- R83 on the words R78 calls canonical. -/
theorem encode_of_decodeOption (hc : CanonicalWord w) (h : decodeOption strict w = some i) :
    encode i = w := by
  rw [decodeOption_of_canonicalWord hc] at h
  obtain ⟨hz, hxy⟩ := hc
  by_cases hp : nib0 w ∈ secondaryTops
  · rcases mem_secondaryTops.1 hp with hp | hp | hp | hp | hp | hp
    · rw [decodeOption_top0 hp] at h
      exact encode_of_decodeTop0 hp (hz hp) h
    · cases (decodeOption_top5 hp).symm.trans h
      exact word_of_nib0_nib3 hp (congrArg BitVec.toNat (hxy (.inl hp)))
    · rw [decodeOption_top8 hp] at h
      exact encode_of_decodeTop8 hp h
    · cases (decodeOption_top9 hp).symm.trans h
      exact word_of_nib0_nib3 hp (congrArg BitVec.toNat (hxy (.inr hp)))
    · rw [decodeOption_topE hp] at h
      exact encode_of_decodeTopE hp h
    · rw [decodeOption_topF hp] at h
      exact encode_of_decodeTopF hp h
  · obtain ⟨j, rfl⟩ := exists_encode_eq hp
    exact congrArg encode (Option.some.inj (h.symm.trans (decodeOption_encode false j)))

theorem canonicalWord_of_decodeOption (h : decodeOption true w = some i) : CanonicalWord w := by
  by_contra hc
  cases (decodeOption_true_of_not_canonicalWord hc).symm.trans h

/-- Settles O2: the decoder finds the operands in the fields of the encoded word. -/
theorem decodeOfEncode : Obligations.DecodeOfEncode :=
  decode_encode

/-- Settles O3: a canonical word is put together from its fields, and DEC_STRICT rejects the others. -/
theorem encodeOfDecode : Obligations.EncodeOfDecode := by
  unfold Obligations.EncodeOfDecode
  simp only [decode_ok_iff]
  exact ⟨fun strict w i h hc => encode_of_decodeOption hc h, fun w i h => canonicalWord_of_decodeOption h⟩

/-! ### The words that fail (R79) -/

/-- R79: the table of failing words. -/
def FailingWord (w : Word) : Prop :=
  (nib0 w = 0x0 ∧ lowByte w ≠ 0xE0 ∧ lowByte w ≠ 0xEE) ∨
  (nib0 w = 0x8 ∧ nib3 w ∈ ([0x8, 0x9, 0xA, 0xB, 0xC, 0xD, 0xF] : List Nibble)) ∨
  (nib0 w = 0xE ∧ lowByte w ≠ 0x9E ∧ lowByte w ≠ 0xA1) ∨
  (nib0 w = 0xF ∧ lowByte w ∉ ([0x07, 0x0A, 0x15, 0x18, 0x1E, 0x29, 0x33, 0x55, 0x65] : List Byte))

theorem decodeTop0_false_eq_none_iff :
    decodeTop0 false w = none ↔ lowByte w ≠ 0xE0 ∧ lowByte w ≠ 0xEE := by
  obtain ⟨hb, hd⟩ | ⟨hb, hd⟩ | ⟨hcls, hret, hd⟩ := decodeTop0_false_cases w
  · simp [hb, hd]
  · simp [hb, hd]
  · exact iff_of_true hd ⟨hcls, hret⟩

theorem decodeTop8_eq_none_iff :
    decodeTop8 w = none ↔ nib3 w ∈ ([0x8, 0x9, 0xA, 0xB, 0xC, 0xD, 0xF] : List Nibble) := by
  have hlt := (nib3 w).isLt
  unfold decodeTop8
  split
  case h_10 =>
    simp_all [BitVec.toNat_eq]
    omega
  all_goals simp [BitVec.toNat_eq, *]

theorem decodeTopE_eq_none_iff :
    decodeTopE w = none ↔ lowByte w ≠ 0x9E ∧ lowByte w ≠ 0xA1 := by
  unfold decodeTopE
  split <;> simp_all [BitVec.toNat_eq]

theorem decodeTopF_eq_none_iff :
    decodeTopF w = none ↔
      lowByte w ∉ ([0x07, 0x0A, 0x15, 0x18, 0x1E, 0x29, 0x33, 0x55, 0x65] : List Byte) := by
  unfold decodeTopF
  split <;> simp_all [BitVec.toNat_eq]

theorem decodeOption_false_eq_none_iff : decodeOption false w = none ↔ FailingWord w := by
  unfold FailingWord
  by_cases h : nib0 w ∈ secondaryTops
  · rcases mem_secondaryTops.1 h with h | h | h | h | h | h
    · rw [decodeOption_top0 h, decodeTop0_false_eq_none_iff]
      simp [h]
    · rw [decodeOption_top5 h]
      simp [h]
    · rw [decodeOption_top8 h, decodeTop8_eq_none_iff]
      simp [h]
    · rw [decodeOption_top9 h]
      simp [h]
    · rw [decodeOption_topE h, decodeTopE_eq_none_iff]
      simp [h]
    · rw [decodeOption_topF h, decodeTopF_eq_none_iff]
      simp [h]
  · obtain ⟨i, rfl⟩ := exists_encode_eq h
    rw [mem_secondaryTops] at h
    rw [decodeOption_encode]
    exact iff_of_false (Option.some_ne_none i) (by tauto)

theorem decodeOption_eq_none_iff :
    decodeOption strict w = none ↔ FailingWord w ∨ strict = true ∧ ¬CanonicalWord w := by
  by_cases hc : CanonicalWord w
  · rw [decodeOption_of_canonicalWord hc, decodeOption_false_eq_none_iff]
    simp [hc]
  · cases strict with
    | false => simp [decodeOption_false_eq_none_iff]
    | true => simp [decodeOption_true_of_not_canonicalWord hc, hc]

/-- Settles O5: under each top nibble by what its decoder rejects. -/
theorem failingWords : Obligations.FailingWords := fun w =>
  (decode_error_iff false w).trans decodeOption_false_eq_none_iff

end Sys2Proof
end

section
/-!
PROOFS. The opcode map (spec 30_encoding.md R73): the decoder and the table of rows agree, and the rows are
disjoint.
-/

namespace Sys2Proof

open Machine

variable {strict : Bool} {w : Word} {i : Instr} {r r' : Row}

/-! ### The row of an instruction -/

theorem encode_selects_own_row (i : Instr) : Laws.Encoding.Statement i :=
  match i with
  | .clearScreen => Laws.Encoding.clearScreen
  | .ret => Laws.Encoding.ret
  | .jump nnn => Laws.Encoding.jump nnn
  | .call nnn => Laws.Encoding.call nnn
  | .skipEqImm x nn => Laws.Encoding.skipEqImm x nn
  | .skipNeImm x nn => Laws.Encoding.skipNeImm x nn
  | .skipEqReg x y => Laws.Encoding.skipEqReg x y
  | .loadImm x nn => Laws.Encoding.loadImm x nn
  | .addImm x nn => Laws.Encoding.addImm x nn
  | .move x y => Laws.Encoding.move x y
  | .or x y => Laws.Encoding.or x y
  | .and x y => Laws.Encoding.and x y
  | .xor x y => Laws.Encoding.xor x y
  | .add x y => Laws.Encoding.add x y
  | .sub x y => Laws.Encoding.sub x y
  | .shiftRight x y => Laws.Encoding.shiftRight x y
  | .subRev x y => Laws.Encoding.subRev x y
  | .shiftLeft x y => Laws.Encoding.shiftLeft x y
  | .skipNeReg x y => Laws.Encoding.skipNeReg x y
  | .loadIndex nnn => Laws.Encoding.loadIndex nnn
  | .jumpIndexed nnn => Laws.Encoding.jumpIndexed nnn
  | .loadRand x nn => Laws.Encoding.loadRand x nn
  | .draw x y n => Laws.Encoding.draw x y n
  | .skipKeyPressed x => Laws.Encoding.skipKeyPressed x
  | .skipKeyNotPressed x => Laws.Encoding.skipKeyNotPressed x
  | .loadDelay x => Laws.Encoding.loadDelay x
  | .waitForKey x => Laws.Encoding.waitForKey x
  | .setDelay x => Laws.Encoding.setDelay x
  | .setSound x => Laws.Encoding.setSound x
  | .addIndex x => Laws.Encoding.addIndex x
  | .loadFont x => Laws.Encoding.loadFont x
  | .storeBCD x => Laws.Encoding.storeBCD x
  | .regDump x => Laws.Encoding.regDump x
  | .regLoad x => Laws.Encoding.regLoad x

/-- R73, R78: a word DEC_STRICT would reject decodes as one of the four rows with spare bits, and selects
that row. -/
theorem row_of_decodeOption_of_not_canonicalWord (hc : ¬CanonicalWord w)
    (h : decodeOption false w = some i) :
    ∃ r ∈ opcodeRows, r.selects false w = true ∧ r.variant = i.variant := by
  obtain ⟨hp, -⟩ | ⟨hp | hp, -⟩ := not_canonicalWord_iff.1 hc
  · rw [decodeOption_top0 hp] at h
    obtain ⟨hb, hd⟩ | ⟨hb, hd⟩ | ⟨-, -, hd⟩ := decodeTop0_false_cases w <;>
      cases hd.symm.trans h
    · refine ⟨⟨.clearScreen, 0x00E0, 0xF0FF, 0xFFFF⟩, by decide, ?_, rfl⟩
      exact (Row.selects_iff _ _ _).2 ((and_F0FF w).trans (by rw [hp, hb]; rfl))
    · refine ⟨⟨.ret, 0x00EE, 0xF0FF, 0xFFFF⟩, by decide, ?_, rfl⟩
      exact (Row.selects_iff _ _ _).2 ((and_F0FF w).trans (by rw [hp, hb]; rfl))
  · cases (decodeOption_top5 hp).symm.trans h
    refine ⟨⟨.skipEqReg, 0x5000, 0xF000, 0xF00F⟩, by decide, ?_, rfl⟩
    exact (Row.selects_iff _ _ _).2 ((and_F000 w).trans (by rw [hp]; rfl))
  · cases (decodeOption_top9 hp).symm.trans h
    refine ⟨⟨.skipNeReg, 0x9000, 0xF000, 0xF00F⟩, by decide, ?_, rfl⟩
    exact (Row.selects_iff _ _ _).2 ((and_F000 w).trans (by rw [hp]; rfl))

/-- R73: a canonical word is the encoding of its instruction, which selects the instruction's row. -/
theorem row_of_decodeOption (h : decodeOption strict w = some i) :
    ∃ r ∈ opcodeRows, r.selects strict w = true ∧ r.variant = i.variant := by
  by_cases hc : CanonicalWord w
  · obtain ⟨r, hr, hv, hs⟩ := encode_selects_own_row i
    exact ⟨r, hr, encode_of_decodeOption hc h ▸ hs strict, hv⟩
  · cases strict with
    | false => exact row_of_decodeOption_of_not_canonicalWord hc h
    | true => cases (decodeOption_true_of_not_canonicalWord hc).symm.trans h

/-! ### The rows a word selects -/

/-- R73: two rows one word can select are the same row. -/
theorem opcodeRows_disjoint (strict : Bool) : ∀ r ∈ opcodeRows, ∀ r' ∈ opcodeRows,
    r.pattern &&& r'.maskFor strict = r'.pattern &&& r.maskFor strict → r = r' := by
  cases strict <;> decide

theorem row_unique (hr : r ∈ opcodeRows) (hr' : r' ∈ opcodeRows)
    (hs : r.selects strict w = true) (hs' : r'.selects strict w = true) : r = r' := by
  rw [Row.selects_iff] at hs hs'
  refine opcodeRows_disjoint strict r hr r' hr' ?_
  rw [← hs, ← hs', BitVec.and_assoc, BitVec.and_assoc, BitVec.and_comm (r.maskFor strict)]

/-- A field the row's mask keeps whole is the pattern's. -/
theorem field_of_selects (hs : r.selects strict w = true) (lo len : Nat)
    (hm : (r.maskFor strict).extractLsb' lo len = BitVec.allOnes len) :
    w.extractLsb' lo len = r.pattern.extractLsb' lo len := by
  rw [← (Row.selects_iff _ _ _).1 hs, BitVec.extractLsb'_and, hm, BitVec.and_allOnes]

/-- R74: every row fixes the top nibble. -/
theorem opcodeRows_mask_top (strict : Bool) :
    ∀ r ∈ opcodeRows, nib0 (r.maskFor strict) = BitVec.allOnes 4 := by
  cases strict <;> decide

theorem nib0_of_selects (hr : r ∈ opcodeRows) (hs : r.selects strict w = true) :
    nib0 w = nib0 r.pattern :=
  field_of_selects hs 12 4 (opcodeRows_mask_top strict r hr)

/-- R79: a row fixes the field its top nibble's words are told apart by, at a value that decodes. -/
theorem opcodeRows_mask_secondary (strict : Bool) : ∀ r ∈ opcodeRows,
    (nib0 r.pattern = 0x8 → nib3 (r.maskFor strict) = BitVec.allOnes 4) ∧
    (nib0 r.pattern ∈ ([0x0, 0xE, 0xF] : List Nibble) →
      lowByte (r.maskFor strict) = BitVec.allOnes 8) ∧
    ¬FailingWord r.pattern := by
  unfold FailingWord
  cases strict <;> decide

/-- R78: with DEC_STRICT a row fixes the spare bits at zero. -/
theorem opcodeRows_strictMask_spare : ∀ r ∈ opcodeRows,
    (nib0 r.pattern = 0x0 → nib1 r.strictMask = BitVec.allOnes 4) ∧
    (nib0 r.pattern = 0x5 ∨ nib0 r.pattern = 0x9 → nib3 r.strictMask = BitVec.allOnes 4) ∧
    CanonicalWord r.pattern := by
  unfold CanonicalWord
  decide

theorem not_failingWord_of_selects (hr : r ∈ opcodeRows)
    (hs : r.selects strict w = true) : ¬FailingWord w := by
  obtain ⟨hbottom, hlow, hpat⟩ := opcodeRows_mask_secondary strict r hr
  have htop := nib0_of_selects hr hs
  rw [← htop] at hbottom hlow
  have hb (hm : nib0 w ∈ ([0x0, 0xE, 0xF] : List Nibble)) : lowByte w = lowByte r.pattern :=
    field_of_selects hs 0 8 (hlow hm)
  refine fun hf => hpat ?_
  unfold FailingWord at hf ⊢
  rw [← htop]
  rcases hf with ⟨hp, hf⟩ | ⟨hp, hf⟩ | ⟨hp, hf⟩ | ⟨hp, hf⟩
  · exact .inl ⟨hp, hb (by simp [hp]) ▸ hf⟩
  · have hn : nib3 w = nib3 r.pattern := field_of_selects hs 0 4 (hbottom hp)
    exact .inr (.inl ⟨hp, hn ▸ hf⟩)
  · exact .inr (.inr (.inl ⟨hp, hb (by simp [hp]) ▸ hf⟩))
  · exact .inr (.inr (.inr ⟨hp, hb (by simp [hp]) ▸ hf⟩))

theorem canonicalWord_of_selects (hr : r ∈ opcodeRows)
    (hs : r.selects true w = true) : CanonicalWord w := by
  obtain ⟨hhigh, hlow, hz, hxy⟩ := opcodeRows_strictMask_spare r hr
  rw [← nib0_of_selects hr hs] at hhigh hlow hz hxy
  exact ⟨fun hp => (field_of_selects hs 8 4 (hhigh hp)).trans (hz hp),
    fun hp => (field_of_selects hs 0 4 (hlow hp)).trans (hxy hp)⟩

/-- R73: a word that selects a row decodes, and the row of its instruction can only be that one. -/
theorem decodeOption_of_selects (hr : r ∈ opcodeRows)
    (hs : r.selects strict w = true) : ∃ i, decodeOption strict w = some i ∧ i.variant = r.variant := by
  have hsome : decodeOption strict w ≠ none := by
    rw [Ne, decodeOption_eq_none_iff]
    rintro (hf | ⟨rfl, hc⟩)
    · exact not_failingWord_of_selects hr hs hf
    · exact hc (canonicalWord_of_selects hr hs)
  obtain ⟨i, hi⟩ := Option.ne_none_iff_exists'.1 hsome
  obtain ⟨r', hr', hs', hv⟩ := row_of_decodeOption hi
  exact ⟨i, hi, row_unique hr' hr hs' hs ▸ hv.symm⟩

/-- Settles O4: the row of an instruction, the instruction of a row, and the disjointness of the rows. -/
theorem decodeSelectsOneRow : Obligations.DecodeSelectsOneRow := by
  unfold Obligations.DecodeSelectsOneRow
  simp only [decode_ok_iff]
  exact ⟨fun _ _ _ => row_of_decodeOption, fun _ _ _ => decodeOption_of_selects, fun _ _ _ _ => row_unique⟩

end Sys2Proof
end

section
/-!
PROOFS. The assembler's check (spec 30_encoding.md R84, R86): operands that fit their widths build the
instruction they are the source form of, and the operands of an instruction fit.
-/

namespace Sys2Proof

/-! ### Operands that fit (R86) -/

section

variable {k : Nat} {ws ns : List Nat}

@[simp] theorem fitsWidths_nil_iff : fitsWidths [] ns = true ↔ ns = [] := by
  cases ns <;> simp [fitsWidths]

/-- R86: a number in its range is the value of a field of that width. -/
theorem exists_field_of_fitsWidths_cons (h : fitsWidths (k :: ws) ns = true) :
    ∃ (x : BitVec k) (ms : List Nat), ns = x.toNat :: ms ∧ fitsWidths ws ms = true := by
  cases ns with
  | nil => cases h
  | cons n ms =>
    obtain ⟨hn, hms⟩ : n < 2 ^ k ∧ fitsWidths ws ms = true := by simpa [fitsWidths] using h
    exact ⟨BitVec.ofNatLT n hn, ms, rfl, hms⟩

@[simp] theorem fitsWidths_cons_toNat (x : BitVec k) :
    fitsWidths (k :: ws) (x.toNat :: ns) = fitsWidths ws ns := by
  simp [fitsWidths, x.isLt]

end

theorem Instr.wellFormed_eq_true (i : Instr) : i.wellFormed = true := by
  unfold Instr.wellFormed Source.wellFormed
  cases i <;> simp [Instr.source, Variant.format, Format.widths]

/-! ### The assembler (R84) -/

theorem buildInstr_source (i : Instr) : buildInstr i.source.variant i.source.operands = some i := by
  cases i <;> simp [Instr.source, buildInstr]

/-- R86: operands in their ranges build an instruction, format by format. -/
theorem buildInstr_of_fitsWidths (v : Variant) (ns : List Nat)
    (h : fitsWidths v.format.widths ns = true) :
    ∃ i, buildInstr v ns = some i ∧ i.source = ⟨v, ns⟩ := by
  cases v with
  | clearScreen | ret =>
    obtain rfl := fitsWidths_nil_iff.1 h
    exact ⟨_, rfl, rfl⟩
  | jump | call | loadIndex | jumpIndexed | skipKeyPressed | skipKeyNotPressed | loadDelay | waitForKey
  | setDelay | setSound | addIndex | loadFont | storeBCD | regDump | regLoad =>
    obtain ⟨x, _, rfl, hnil⟩ := exists_field_of_fitsWidths_cons h
    obtain rfl := fitsWidths_nil_iff.1 hnil
    exact ⟨_, rfl, by simp [Instr.source]⟩
  | skipEqImm | skipNeImm | loadImm | addImm | loadRand | skipEqReg | skipNeReg | move | or | and | xor
  | add | sub | shiftRight | subRev | shiftLeft =>
    obtain ⟨x, _, rfl, hy⟩ := exists_field_of_fitsWidths_cons h
    obtain ⟨y, _, rfl, hnil⟩ := exists_field_of_fitsWidths_cons hy
    obtain rfl := fitsWidths_nil_iff.1 hnil
    exact ⟨_, rfl, by simp [Instr.source]⟩
  | draw =>
    obtain ⟨x, _, rfl, hy⟩ := exists_field_of_fitsWidths_cons h
    obtain ⟨y, _, rfl, hn⟩ := exists_field_of_fitsWidths_cons hy
    obtain ⟨n, _, rfl, hnil⟩ := exists_field_of_fitsWidths_cons hn
    obtain rfl := fitsWidths_nil_iff.1 hnil
    exact ⟨_, rfl, by simp [Instr.source]⟩

theorem assemble_of_wellFormed {src : Source} (h : src.wellFormed = true) :
    assemble src = buildInstr src.variant src.operands :=
  if_pos h

/-- Settles O7: what fits is built, and the operands of an instruction fit. -/
theorem assemblyChecksRanges : Obligations.AssemblyChecksRanges := by
  unfold Obligations.AssemblyChecksRanges
  refine ⟨fun src h => ?_, fun src h => ?_, fun i => ⟨i.wellFormed_eq_true, ?_⟩⟩
  · rw [assemble_of_wellFormed h]
    exact buildInstr_of_fitsWidths src.variant src.operands h
  · exact if_neg (Bool.eq_false_iff.1 h)
  · exact (assemble_of_wellFormed i.wellFormed_eq_true).trans (buildInstr_source i)

end Sys2Proof
end

section
/-!
PROOFS. The control-flow instructions where they raise no fault (spec 40_control_flow.md R100 to R103): the
value of each target as an integer, and the next state it is taken to.
-/

namespace Sys2Proof.Machine

/-! ### The targets as integers -/

/-- R72: an address field is not scaled. -/
@[simp] theorem absAddr_toNat (nnn : Addr12) : (absAddr nnn).toNat = nnn.toNat :=
  BitVec.toNat_setWidth_of_le (by decide)

/-- R103: the sum is exact, since 0xFFF + 0xFF fits 16 bits. -/
@[simp] theorem indexedTarget_toNat (nnn : Addr12) (s : State) :
    (indexedTarget nnn s).toNat = nnn.toNat + (s.reg 0).toNat := by
  have hnnn := nnn.isLt
  have hv0 := (s.reg 0).isLt
  rw [indexedTarget, BitVec.toNat_ofNat, Nat.mod_eq_of_lt (by omega)]

/-- R102: the address behind a recorded Call does not wrap. -/
theorem entry_add_two_toNat {a : Word} (h : a.toNat ≤ 4094) : (a + 2).toNat = a.toNat + 2 := by
  simp only [BitVec.toNat_add, BitVec.reduceToNat]
  omega

/-! ### The instructions -/

/-- Settles O28: the jump is an update of PC alone. -/
theorem jumpResult : Obligations.JumpResult := by
  unfold Obligations.JumpResult
  exact fun nnn s => ⟨s.goto (absAddr nnn), rfl, absAddr_toNat nnn, onlyChanges_pc _⟩

/-- Settles O32: the same update, to the sum. -/
theorem jumpIndexedResult : Obligations.JumpIndexedResult := by
  unfold Obligations.JumpIndexedResult
  exact fun nnn s => ⟨s.goto (indexedTarget nnn s), rfl, indexedTarget_toNat nnn s, onlyChanges_pc _⟩

/-- Settles O29: with room on the stack the Call writes the slot at SP, and no other. -/
theorem callResult : Obligations.CallResult := by
  unfold Obligations.CallResult
  intro nnn s k hk
  have hroom : s.sp.val < 16 := hk ▸ k.isLt
  refine ⟨_, execCall_ok nnn hroom, absAddr_toNat nnn, rfl, ?_, fun j hj => ?_,
    onlyChanges_stack (.head _)⟩
  · simp only [hk, Vector.getElem_set_self]
  · have hne : s.sp.val ≠ j.val := fun e => hj (Fin.ext (e.symm.trans hk.symm))
    simp only [Vector.getElem_set_ne _ _ hne]

/-- Settles O31: the slot popped is the last one in use, whose content the invariant bounds. -/
theorem returnResult : Obligations.ReturnResult := by
  unfold Obligations.ReturnResult
  intro s k hinv hk
  have hentry : 0 < s.sp.val := hk ▸ k.val.succ_pos
  have htop : s.sp.val - 1 = k.val := by omega
  refine ⟨_, execRet_ok hentry, ?_, htop, rfl, onlyChanges_stack (.head _)⟩
  simp only [htop]
  exact entry_add_two_toNat (hinv.entries_le k (by omega))

end Sys2Proof.Machine
end

section
/-!
PROOFS. The conditional skips (spec 41_conditional_skip.md R110 to R113): what a skip does once its condition
is computed, and the four comparisons it is used with.
-/

namespace Sys2Proof.Machine

/-- R110 to R113: an instruction that answers the skip on `c`, where `c` computes the condition `p`, goes to
PC + 4 when `p` holds, else to PC + 2, and changes nothing else. -/
theorem exec_skip_result {i : Instr} {s : State} {c : Bool} {p : Prop} [Decidable p]
    (hexec : exec i s = .next (skipIf c s)) (hcond : c = true ↔ p) (hs : s.Fetchable) :
    ∃ t, exec i s = .next t ∧ OnlyChanges [] s t ∧
      t.pc.toNat = if p then s.pc.toNat + 4 else s.pc.toNat + 2 := by
  refine ⟨skipIf c s, hexec, onlyChanges_pc _, ?_⟩
  simp only [skipIf_pc_toNat c s hs, hcond]

/-- Settles O33: the two skips on the comparison of Vx with the immediate. -/
theorem skipImmediateResult : Obligations.SkipImmediateResult := by
  unfold Obligations.SkipImmediateResult
  exact fun x nn s hs => ⟨exec_skip_result rfl beq_iff_eq hs, exec_skip_result rfl bne_iff_ne hs⟩

/-- Settles O34: the two skips on the comparison of Vx with Vy. -/
theorem skipRegisterResult : Obligations.SkipRegisterResult := by
  unfold Obligations.SkipRegisterResult
  exact fun x y s hs => ⟨exec_skip_result rfl beq_iff_eq hs, exec_skip_result rfl bne_iff_ne hs⟩

end Sys2Proof.Machine
end

section
/-!
PROOFS. The arithmetic, logic and shift instructions (spec 42_arithmetic_logic.md R120 to R129): the flags
as integers, what a write of Vx with or without a flag leaves, and each instruction as one such write.
-/

namespace Sys2Proof.Machine

/-! ### The flags as integers -/

theorem carryFlag_toNat (a b : Byte) :
    (carryFlag a b).toNat = if a.toNat + b.toNat > 255 then 1 else 0 := by
  simp only [carryFlag, flagByte_toNat, decide_eq_true_eq]

theorem greaterFlag_toNat (a b : Byte) :
    (greaterFlag a b).toNat = if a.toNat > b.toNat then 1 else 0 := by
  simp only [greaterFlag, flagByte_toNat, decide_eq_true_eq]

theorem lowBitFlag_toNat (a : Byte) : (lowBitFlag a).toNat = a.toNat % 2 :=
  (BitVec.toNat_and a 1).trans (Nat.and_one_is_mod a.toNat)

theorem shiftLeftFlag_toNat (cfg : Config) (a : Byte) :
    (shiftLeftFlag cfg a).toNat = a.toNat &&& cfg.shlFlagMask.toNat :=
  BitVec.toNat_and a cfg.shlFlagMask

/-- D11: the default mask 0x80 keeps bit 7 alone, which a byte has set from 128 on. -/
theorem toNat_and_bit7 (a : Byte) : a.toNat &&& 128 = if a.toNat ≥ 128 then 128 else 0 := by
  have ha := a.isLt
  have hbit : a.toNat.testBit 7 = decide (a.toNat ≥ 128) :=
    Nat.testBit_eq_decide_div_mod_eq.trans (decide_eq_decide.2 (by omega))
  calc a.toNat &&& 128
    _ = (a.toNat.testBit 7).toNat * 128 := Nat.and_two_pow a.toNat 7
    _ = if a.toNat ≥ 128 then 128 else 0 := by rw [hbit]; split <;> simp [*]

/-! ### A write of Vx, with and without a flag -/

section

variable {i : Instr} {x : Nibble} {s : State} {b flag : Byte} {n m : Nat}

/-- An instruction that answers the write of `b` to Vx has the plain result. -/
theorem plainResult_of_writeReg (hexec : exec i s = .next (writeReg x b s)) (hb : b.toNat = n)
    (hs : s.Fetchable) : PlainResult i x s n := by
  refine ⟨writeReg x b s, hexec, ?_, fun r hr => ?_, onlyChanges_regs (.head _), ?_⟩
  · rw [writeReg_eq, advance_reg, setReg_reg_same, hb]
  · exact writeReg_reg_ne b (hr <| List.mem_singleton.2 ·)
  · exact advance_pc_toNat (s.setReg x b) hs

/-- R120 (d), D9: VF is written before Vx, so that Vx holds the result also when it is VF, and VF holds the
flag when it is not Vx. -/
theorem flaggedResult_of_writeFlagged (hexec : exec i s = .next (writeFlagged flag x b s))
    (hb : b.toNat = n) (hflag : flag.toNat = m) (hs : s.Fetchable) : FlaggedResult i x s n m := by
  refine ⟨writeFlagged flag x b s, hexec, ?_, fun hx => ?_, fun r hr => ?_,
    onlyChanges_regs (.head _), ?_⟩
  · rw [writeFlagged_eq, advance_reg, setReg_reg_same, hb]
  · rw [writeFlagged_eq, advance_reg, setReg_reg_ne _ _ _ _ hx.symm, setReg_reg_same, hflag]
  · exact writeFlagged_reg_ne flag b (by simpa using hr)
  · exact advance_pc_toNat ((s.setReg 0xF flag).setReg x b) hs

end

/-! ### The instructions -/

/-- Settles O35: a flagged write of the sum and the carry. -/
theorem addResult : Obligations.AddResult := by
  unfold Obligations.AddResult
  exact fun x y s => flaggedResult_of_writeFlagged rfl (sumByte_toNat _ _) (carryFlag_toNat _ _)

/-- Settles O36: a plain write of the sum. -/
theorem addImmediateResult : Obligations.AddImmediateResult := by
  unfold Obligations.AddImmediateResult
  exact fun x nn s => plainResult_of_writeReg rfl (sumByte_toNat _ _)

/-- Settles O37: the flagged writes of the two differences. -/
theorem subtractResults : Obligations.SubtractResults := by
  unfold Obligations.SubtractResults
  exact fun x y s hs =>
    ⟨flaggedResult_of_writeFlagged rfl (diffByte_toNat _ _) (greaterFlag_toNat _ _) hs,
      flaggedResult_of_writeFlagged rfl (diffByte_toNat _ _) (greaterFlag_toNat _ _) hs⟩

/-- Settles O38: three plain writes. -/
theorem logicResults : Obligations.LogicResults := by
  unfold Obligations.LogicResults
  exact fun x y s hs =>
    ⟨plainResult_of_writeReg rfl (BitVec.toNat_or _ _) hs,
      plainResult_of_writeReg rfl (BitVec.toNat_and _ _) hs,
      plainResult_of_writeReg rfl (BitVec.toNat_xor _ _) hs⟩

/-- Settles O39: a flagged write of the half and the low bit. -/
theorem shiftRightResult : Obligations.ShiftRightResult := by
  unfold Obligations.ShiftRightResult
  exact fun x y s => flaggedResult_of_writeFlagged rfl (halfByte_toNat _) (lowBitFlag_toNat _)

/-- Settles O40: a flagged write of the double and the masked operand, whose value under the default mask is
that of bit 7. -/
theorem shiftLeftResult : Obligations.ShiftLeftResult := by
  unfold Obligations.ShiftLeftResult
  intro x y s hs
  have hresult : FlaggedResult (.shiftLeft x y) x s ((s.reg x).toNat * 2 % 256)
      ((s.reg x).toNat &&& s.cfg.shlFlagMask.toNat) :=
    flaggedResult_of_writeFlagged rfl (doubleByte_toNat _) (shiftLeftFlag_toNat _ _) hs
  refine ⟨hresult, fun hmask => ?_⟩
  rw [← toNat_and_bit7]
  rwa [hmask] at hresult

end Sys2Proof.Machine
end

section
/-!
PROOFS. Immediate load, move and random (spec 43_load_move_random.md R140 to R142): the first two as plain
writes of Vx, and what a draw leaves, whatever the byte.
-/

namespace Sys2Proof.Machine

/-- Settles O41: a plain write of the immediate, and one of Vy. -/
theorem loadAndMoveResults : Obligations.LoadAndMoveResults := by
  unfold Obligations.LoadAndMoveResults
  exact fun x y nn s hs => ⟨plainResult_of_writeReg rfl rfl hs, plainResult_of_writeReg rfl rfl hs⟩

/-! ### The draw -/

theorem exec_loadRand (x : Nibble) (nn : Byte) (s : State) :
    exec (.loadRand x nn) s = .next (loadRandWith s.nextRandom x nn s) := rfl

section

variable (r : Byte) (x : Nibble) (nn : Byte) (s : State)

@[simp] theorem loadRandWith_random : (loadRandWith r x nn s).random = s.random.tail := rfl

@[simp] theorem loadRandWith_draws : (loadRandWith r x nn s).draws = s.draws + 1 := rfl

theorem loadRandWith_pc_toNat (hs : s.Fetchable) :
    (loadRandWith r x nn s).pc.toNat = s.pc.toNat + 2 :=
  advance_pc_toNat (s.takeRandom.setReg x (r &&& nn)) hs

/-- R142: the mask clears every bit outside nn. -/
theorem loadRandWith_reg_and_not : (loadRandWith r x nn s).reg x &&& ~~~nn = 0 := by
  rw [loadRandWith_reg, BitVec.and_assoc, BitVec.and_not_self]
  exact BitVec.and_zero

end

/-- Settles O42: what the draw leaves holds of any byte; which byte it is, the input says. -/
theorem loadRandResult : Obligations.LoadRandResult := by
  unfold Obligations.LoadRandResult
  intro x nn s hs
  have hexec := exec_loadRand x nn s
  refine ⟨_, hexec, fun r rest hsupplied => ?_, fun hnone => ?_, loadRandWith_reg_and_not _ x nn s,
    loadRandWith_draws _ x nn s, fun r hr => ?_, exec_onlyChanges hexec,
    loadRandWith_pc_toNat _ x nn s hs⟩
  · rw [loadRandWith_reg, nextRandom_cons s r rest hsupplied, loadRandWith_random, hsupplied]
    exact ⟨rfl, rfl⟩
  · rw [loadRandWith_reg, nextRandom_nil s hnone, loadRandWith_random, hnone]
    exact ⟨rfl, rfl⟩
  · exact exec_keepsUnnamedRegs hexec r (hr <| List.mem_singleton.2 ·)

end Sys2Proof.Machine
end

section
/-!
PROOFS. The index register and the memory instructions (spec 44_memory_indexed.md R150 to R155): a write of I,
the digits StoreBCD stores, and what the two register loops leave.
-/

namespace Sys2Proof.Machine

/-! ### Writes of the index register -/

section

variable {i : Instr} {x : Nibble} {s : State} {a : Word} {n : Nat}

/-- An instruction that answers the write of `a` to I changes nothing else. -/
theorem exec_setIndex_result (hexec : exec i s = .next (s.setIndex a).advance) (ha : a.toNat = n)
    (hs : s.Fetchable) :
    ∃ t, exec i s = .next t ∧ t.index.toNat = n ∧ OnlyChanges [.index] s t ∧
      t.pc.toNat = s.pc.toNat + 2 :=
  ⟨(s.setIndex a).advance, hexec, ha, onlyChanges_index (.head _), advance_pc_toNat (s.setIndex a) hs⟩

/-- R151: a sum that fits 16 bits is written to I. -/
theorem exec_addIndex_ok (hsum : s.index.toNat + (s.reg x).toNat ≤ 0xFFFF) :
    exec (.addIndex x) s =
      .next (s.setIndex (BitVec.ofNat 16 (s.index.toNat + (s.reg x).toNat))).advance :=
  if_neg (Nat.not_lt.2 hsum)

/-- R151, D15: a sum that does not fit raises IndexOverflow. -/
theorem exec_addIndex_overflow (hsum : s.index.toNat + (s.reg x).toNat > 0xFFFF) :
    exec (.addIndex x) s = .next (s.latch .indexOverflow) :=
  if_pos hsum

end

/-- A number that fits its width is the value of the word made of it. -/
theorem ofNat_toNat_of_lt {w n : Nat} (h : n < 2 ^ w) : (BitVec.ofNat w n).toNat = n :=
  Nat.mod_eq_of_lt h

/-- Settles O44: the address is written to I. -/
theorem loadIndexResult : Obligations.LoadIndexResult := by
  unfold Obligations.LoadIndexResult
  exact fun nnn s => exec_setIndex_result rfl (absAddr_toNat nnn)

/-- Settles O45: the sum is written to I, or IndexOverflow is latched. -/
theorem addIndexResult : Obligations.AddIndexResult := by
  unfold Obligations.AddIndexResult
  refine fun x s hs => ⟨fun hsum => ?_, fun hsum hfault => ?_⟩
  · exact exec_setIndex_result (exec_addIndex_ok hsum) (ofNat_toNat_of_lt (Nat.lt_succ_of_le hsum)) hs
  · rw [exec_addIndex_overflow hsum, latch_eq s _ hfault]

/-- Settles O46: five times 255 fits 16 bits, so the product is written to I as it is. -/
theorem loadFontResult : Obligations.LoadFontResult := by
  unfold Obligations.LoadFontResult
  intro x s hs
  have hfits : 5 * (s.reg x).toNat < 2 ^ 16 := by
    have := (s.reg x).isLt
    omega
  exact exec_setIndex_result rfl (ofNat_toNat_of_lt hfits) hs

/-! ### StoreBCD -/

section

variable {s : State} (v : Byte)

theorem storeDigits_memKeptOutside (s : State) : MemKeptOutside s.index.toNat 3 s (storeDigits v s) := by
  intro a ha
  rw [storeDigits, poke_peek_ne _ _ (by omega), poke_peek_ne _ _ (by omega),
    poke_peek_ne _ _ (by omega)]

theorem storeDigits_peek_hundreds (hm : s.MemOk) (hrange : s.index.toNat + 2 ≤ 4095) :
    ((storeDigits v s).peek s.index.toNat).toNat = v.toNat / 100 := by
  rw [storeDigits, poke_peek_ne _ _ (by omega), poke_peek_ne _ _ (by omega),
    poke_peek_same _ _ hm (by omega), ofNat_toNat_of_lt (by omega)]

theorem storeDigits_peek_tens (hm : s.MemOk) (hrange : s.index.toNat + 2 ≤ 4095) :
    ((storeDigits v s).peek (s.index.toNat + 1)).toNat = v.toNat / 10 % 10 := by
  rw [storeDigits, poke_peek_ne _ _ (by omega),
    poke_peek_same _ _ (poke_memWf _ _ _ hm) (by omega), ofNat_toNat_of_lt (by omega)]

theorem storeDigits_peek_ones (hm : s.MemOk) (hrange : s.index.toNat + 2 ≤ 4095) :
    ((storeDigits v s).peek (s.index.toNat + 2)).toNat = v.toNat % 10 := by
  rw [storeDigits, poke_peek_same _ _ (poke_memWf _ _ _ (poke_memWf _ _ _ hm)) (by omega),
    ofNat_toNat_of_lt (by omega)]

end

/-- R153: with its three bytes inside memory StoreBCD stores the digits. -/
theorem exec_storeBCD_ok {x : Nibble} {s : State} (hrange : s.index.toNat + 2 ≤ 4095) :
    exec (.storeBCD x) s = .next (storeDigits (s.reg x) s).advance :=
  withIndexRange_ok 3 s (fun t => (storeDigits (t.reg x) t).advance) (.inr (by omega))

/-- Settles O47: digit by digit, each store leaving the ones before it. -/
theorem storeBcdResult : Obligations.StoreBcdResult := by
  unfold Obligations.StoreBcdResult
  intro x s hm hs hrange
  exact ⟨_, exec_storeBCD_ok hrange, storeDigits_peek_hundreds _ hm hrange,
    storeDigits_peek_tens _ hm hrange, storeDigits_peek_ones _ hm hrange,
    storeDigits_memKeptOutside _ s, onlyChanges_mem (.head _), advance_pc_toNat (storeDigits _ s) hs⟩

/-! ### RegDump and RegLoad -/

section

variable {x r : Nibble} {s : State}

/-- R154, R155: the registers moved are V0 to Vx inclusive. -/
theorem lt_regCount_iff : r.toNat < regCount x ↔ r.toNat ≤ x.toNat := Nat.lt_succ_iff

theorem index_add_regCount_le (hrange : s.index.toNat + x.toNat ≤ 4095) :
    s.index.toNat + regCount x ≤ 4096 := Nat.succ_le_succ hrange

/-- R154: with its bytes inside memory RegDump stores its registers. -/
theorem exec_regDump_ok (hrange : s.index.toNat + x.toNat ≤ 4095) :
    exec (.regDump x) s = .next (dumpRegs (regCount x) s).advance :=
  withIndexRange_ok (regCount x) s (fun t => (dumpRegs (regCount x) t).advance)
    (.inr (index_add_regCount_le hrange))

/-- R155: with its bytes inside memory RegLoad loads its registers. -/
theorem exec_regLoad_ok (hrange : s.index.toNat + x.toNat ≤ 4095) :
    exec (.regLoad x) s = .next (loadRegs (regCount x) s).advance :=
  withIndexRange_ok (regCount x) s (fun t => (loadRegs (regCount x) t).advance)
    (.inr (index_add_regCount_le hrange))

/-- R154: up to Vx the byte at I + r is Vr. -/
theorem dumpRegs_peek_reg (hm : s.MemOk) (hrange : s.index.toNat + x.toNat ≤ 4095)
    (hr : r.toNat ≤ x.toNat) : (dumpRegs (regCount x) s).peek (s.index.toNat + r.toNat) = s.reg r := by
  rw [dumpRegs_peek_inside _ s hm (index_add_regCount_le hrange) _ (lt_regCount_iff.2 hr),
    BitVec.ofNat_toNat, BitVec.setWidth_eq]

/-- R155: up to Vx the register Vr takes the byte at I + r. -/
theorem loadRegs_reg_of_le (hr : r.toNat ≤ x.toNat) :
    (loadRegs (regCount x) s).reg r = s.peek (s.index.toNat + r.toNat) := by
  rw [loadRegs_reg (regCount x) x.isLt, if_pos (lt_regCount_iff.2 hr)]

theorem dumpRegs_pc (k : Nat) (s : State) : (dumpRegs k s).pc = s.pc := by
  obtain ⟨m, hm⟩ := dumpRegs_keeps k s
  rw [hm]

theorem loadRegs_pc (k : Nat) (s : State) : (loadRegs k s).pc = s.pc := by
  obtain ⟨v, hv⟩ := loadRegs_keeps k s
  rw [hv]

end

/-- Settles O48: the loop stores each register at its byte, and only there. -/
theorem regDumpResult : Obligations.RegDumpResult := by
  unfold Obligations.RegDumpResult
  intro x s hm hs hrange
  refine ⟨_, exec_regDump_ok hrange, fun r hr => dumpRegs_peek_reg hm hrange hr,
    dumpRegs_peek_outside (regCount x) s, onlyChanges_dumpRegs _ (.head _), ?_⟩
  rw [advance_pc, dumpRegs_pc]
  exact advance_pc_toNat s hs

/-- Settles O49: the loop loads the registers up to Vx, and no other. -/
theorem regLoadResult : Obligations.RegLoadResult := by
  unfold Obligations.RegLoadResult
  intro x s hs hrange
  refine ⟨_, exec_regLoad_ok hrange, fun r hr => loadRegs_reg_of_le hr,
    fun r hr => loadRegs_reg_above (Nat.not_le.2 hr), onlyChanges_loadRegs _ (.head _), ?_⟩
  rw [advance_pc, loadRegs_pc]
  exact advance_pc_toNat s hs

/-- Settles O50: the dump keeps I, so the load reads the bytes the dump stored. -/
theorem dumpLoadRoundTrip : Obligations.DumpLoadRoundTrip := by
  unfold Obligations.DumpLoadRoundTrip
  intro x s t v hm hrange hdump
  have ht : (dumpRegs (regCount x) s).advance = t :=
    Host.Outcome.next.inj ((exec_regDump_ok hrange).symm.trans hdump)
  have hindex : t.index = s.index := exec_onlyChanges hdump .index (by simp [partsWritten])
  have hstored : ∀ r : Nibble, r.toNat ≤ x.toNat → t.peek (t.index.toNat + r.toNat) = s.reg r := by
    rw [hindex, ← ht]
    exact fun r hr => dumpRegs_peek_reg hm hrange hr
  rw [← hindex] at hrange
  refine ⟨_, exec_regLoad_ok (s := { t with v := v }) hrange, fun r hr => ?_,
    fun r hr => loadRegs_reg_above (Nat.not_le.2 hr)⟩
  exact (loadRegs_reg_of_le hr).trans (hstored r hr)

end Sys2Proof.Machine
end

section
/-!
PROOFS. The drawing instructions (spec 45_drawing.md R160, R161): the pixels and the flag a Draw leaves, read
off the loops' rules, and what a second Draw of the same sprite then finds.
-/

namespace Sys2Proof.Machine

variable {x y n : Nibble} {s t : State} {px py : Nat}

/-! ### The sprite -/

/-- R160: the pixels of the screen the sprite covers are those Draw's loops meet. -/
theorem spriteCovers_iff_rowsCover (hpx : px < 64) (hpy : py < 32) :
    SpriteCovers x y n s px py ↔
      RowsCover (s.reg x).toNat (s.reg y).toNat (fun row => s.peek (s.index.toNat + row)) n.toNat px py := by
  unfold SpriteCovers RowsCover ColsCover
  rw [Nat.mod_eq_of_lt hpx, Nat.mod_eq_of_lt hpy]
  constructor
  · rintro ⟨row, col, hrow, hcol, hx, hy, hbit⟩
    exact ⟨row, hrow, hy.symm, col, hcol, hx.symm, hbit⟩
  · rintro ⟨row, hrow, hy, col, hcol, hx, hbit⟩
    exact ⟨row, col, hrow, hcol, hx.symm, hy.symm, hbit⟩

/-- R160: where the sprite falls depends on the coordinate registers, I and memory alone. -/
theorem spriteCovers_congr (hx : t.reg x = s.reg x) (hy : t.reg y = s.reg y) (hindex : t.index = s.index)
    (hmem : ∀ a, t.peek a = s.peek a) : SpriteCovers x y n t px py ↔ SpriteCovers x y n s px py := by
  simp only [SpriteCovers, hx, hy, hindex, hmem]

/-- R160: the sprite covers a pixel that is on. -/
def SpriteCollides (x y n : Nibble) (s : State) : Prop :=
  ∃ px py : Nat, px < 64 ∧ py < 32 ∧ SpriteCovers x y n s px py ∧ fbPixel s.fb px py = true

/-! ### What Draw leaves -/

theorem drawSprite_pixel_of_covers (hpx : px < 64) (hpy : py < 32) (h : SpriteCovers x y n s px py) :
    fbPixel (drawSprite x y n s).fb px py = !fbPixel s.fb px py :=
  (blitRows_pixel _ _ _ n.toNat (by omega) (s.fb, false) px py).1
    ((spriteCovers_iff_rowsCover hpx hpy).1 h)

theorem drawSprite_pixel_of_not_covers (hpx : px < 64) (hpy : py < 32)
    (h : ¬SpriteCovers x y n s px py) : fbPixel (drawSprite x y n s).fb px py = fbPixel s.fb px py :=
  (blitRows_pixel _ _ _ n.toNat (by omega) (s.fb, false) px py).2
    (h <| (spriteCovers_iff_rowsCover hpx hpy).2 ·)

theorem flagByte_eq_one_iff (c : Bool) : flagByte c = 1 ↔ c = true := by
  cases c <;> decide

theorem flagByte_eq_zero_iff (c : Bool) : flagByte c = 0 ↔ ¬c = true := by
  cases c <;> decide

/-- R160, D9: VF takes, last, the flag the loops report, which they start from no collision. -/
theorem drawSprite_VF (x y n : Nibble) (s : State) :
    ∃ c : Bool, (drawSprite x y n s).reg 0xF = flagByte c ∧ (c = true ↔ SpriteCollides x y n s) := by
  refine ⟨_, setReg_reg_same _ _ _, ?_⟩
  rw [blitRows_collision _ _ _ _ (by omega), or_iff_right Bool.false_ne_true]
  exact exists₂_congr fun px py => and_congr_right fun hpx => and_congr_right fun hpy =>
    and_congr_left' (spriteCovers_iff_rowsCover hpx hpy).symm

theorem drawSprite_VF_eq_one_iff : (drawSprite x y n s).reg 0xF = 1 ↔ SpriteCollides x y n s := by
  obtain ⟨c, hflag, hcollides⟩ := drawSprite_VF x y n s
  rw [hflag, flagByte_eq_one_iff, hcollides]

theorem drawSprite_VF_eq_zero_iff : (drawSprite x y n s).reg 0xF = 0 ↔ ¬SpriteCollides x y n s := by
  obtain ⟨c, hflag, hcollides⟩ := drawSprite_VF x y n s
  rw [hflag, flagByte_eq_zero_iff, hcollides]

theorem drawSprite_pc_toNat (hs : s.Fetchable) : (drawSprite x y n s).pc.toNat = s.pc.toNat + 2 :=
  advance_pc_toNat s hs

/-- R160, D14: with n = 0 or its bytes inside memory Draw draws. -/
theorem exec_draw_ok (hrange : n = 0 ∨ s.index.toNat + n.toNat - 1 ≤ 4095) :
    exec (.draw x y n) s = .next (drawSprite x y n s) := by
  refine withIndexRange_ok n.toNat s (drawSprite x y n) ?_
  obtain rfl | hbytes := hrange
  · exact .inl rfl
  · exact .inr (by omega)

/-- Settles O51: pixel by pixel and for VF by the rules of the loops; the rest by the frame of Draw. -/
theorem drawResult : Obligations.DrawResult := by
  unfold Obligations.DrawResult
  intro x y n s hs hrange
  exact ⟨drawSprite x y n s, exec_draw_ok hrange,
    fun px py hpx hpy => ⟨drawSprite_pixel_of_covers hpx hpy, drawSprite_pixel_of_not_covers hpx hpy⟩,
    drawSprite_VF_eq_one_iff.2, drawSprite_VF_eq_zero_iff.2,
    fun r hr => drawSprite_reg_ne y n (hr <| List.mem_singleton.2 ·),
    onlyChanges_drawSprite x y n (by simp) (by simp), drawSprite_pc_toNat hs⟩

/-! ### The same sprite drawn twice -/

/-- R160 (a): a Draw that takes no coordinate from VF leaves the sprite where it falls. -/
theorem spriteCovers_drawSprite (hx : x ≠ 0xF) (hy : y ≠ 0xF) :
    SpriteCovers x y n (drawSprite x y n s) px py ↔ SpriteCovers x y n s px py :=
  spriteCovers_congr (drawSprite_reg_ne y n hx) (drawSprite_reg_ne y n hy) rfl fun _ => rfl

/-- R160 (a): the second Draw toggles the pixels back that the first toggled. -/
theorem drawSprite_drawSprite_fb (hx : x ≠ 0xF) (hy : y ≠ 0xF) :
    (drawSprite x y n (drawSprite x y n s)).fb = s.fb := by
  refine fb_ext fun px py hpx hpy => ?_
  by_cases hcovers : SpriteCovers x y n s px py
  · rw [drawSprite_pixel_of_covers hpx hpy ((spriteCovers_drawSprite hx hy).2 hcovers),
      drawSprite_pixel_of_covers hpx hpy hcovers, Bool.not_not]
  · rw [drawSprite_pixel_of_not_covers hpx hpy (hcovers <| (spriteCovers_drawSprite hx hy).1 ·),
      drawSprite_pixel_of_not_covers hpx hpy hcovers]

/-- R160 (a), log 33: after a Draw the sprite covers a pixel that is on where it covered one that was off. -/
theorem spriteCollides_drawSprite (hx : x ≠ 0xF) (hy : y ≠ 0xF) :
    SpriteCollides x y n (drawSprite x y n s) ↔
      ∃ px py : Nat, px < 64 ∧ py < 32 ∧ SpriteCovers x y n s px py ∧ fbPixel s.fb px py = false := by
  refine exists₂_congr fun px py => and_congr_right fun hpx => and_congr_right fun hpy =>
    (and_congr_left' (spriteCovers_drawSprite hx hy)).trans (and_congr_right fun hcovers => ?_)
  rw [drawSprite_pixel_of_covers hpx hpy hcovers, Bool.not_eq_true']

/-- Settles O52: both Draws draw, since the first keeps I, and the second finds the sprite where it was. -/
theorem drawTwiceRestores : Obligations.DrawTwiceRestores := by
  unfold Obligations.DrawTwiceRestores
  intro x y n s t u hx hy hrange hfirst hsecond
  obtain rfl : drawSprite x y n s = t := Host.Outcome.next.inj ((exec_draw_ok hrange).symm.trans hfirst)
  obtain rfl : drawSprite x y n (drawSprite x y n s) = u :=
    Host.Outcome.next.inj ((exec_draw_ok (s := drawSprite x y n s) hrange).symm.trans hsecond)
  exact ⟨drawSprite_drawSprite_fb hx hy,
    drawSprite_VF_eq_one_iff.trans (spriteCollides_drawSprite hx hy)⟩

/-! ### ClearScreen -/

/-- Settles O53: the blank framebuffer is written, and nothing else. -/
theorem clearScreenResult : Obligations.ClearScreenResult := by
  unfold Obligations.ClearScreenResult
  exact fun s hs => ⟨(s.setFb blankFb).advance, rfl, fun px py _ _ => fbPixel_blankFb px py,
    onlyChanges_fb (.head _), advance_pc_toNat (s.setFb blankFb) hs⟩

end Sys2Proof.Machine
end

section
/-!
PROOFS. The keyboard and timer instructions (spec 46_keyboard_timers.md R170 to R175): the skips on the flag
of the key a register names, the wait and the key event that ends it, and the copies to and from the timers.
-/

namespace Sys2Proof.Machine

/-! ### The key skips -/

section

variable {x : Nibble} {s : State}

/-- R27: the flag of the key whose number a byte holds. -/
theorem key_setWidth_eq (s : State) {b : Byte} {k : Fin 16} (hk : b.toNat = k.val) :
    s.key (b.setWidth 4) = s.keys[k.val] := by
  have hnum : (b.setWidth 4).toNat = k.val := by
    rw [BitVec.toNat_setWidth, hk, Nat.mod_eq_of_lt k.isLt]
  simp only [State.key, hnum]

/-- R170, R171: with a key number of at most 15 a key skip skips on the key's flag or its negation. -/
theorem skipOnKey_eq_skipIf (c : Bool → Bool) {k : Fin 16} (hk : (s.reg x).toNat = k.val) :
    skipOnKey c x s = .next (skipIf (c s.keys[k.val]) s) := by
  have hle : (s.reg x).toNat ≤ 15 := by omega
  rw [skipOnKey_ok c hle, key_setWidth_eq s hk]

/-- R170, R171, D17: with one above 15 and no fault latched it latches OutOfRange and changes nothing else. -/
theorem skipOnKey_outOfRange (c : Bool → Bool) (hfault : s.fault = none) (hk : 15 < (s.reg x).toNat) :
    skipOnKey c x s = .next { s with fault := some (.outOfRange .key (s.reg x).toNat) } := by
  rw [skipOnKey_bad c hk, latch_eq s _ hfault]

end

/-- Settles O54: both are one skip, on the key's flag and on its negation, behind one range check. -/
theorem keySkipResults : Obligations.KeySkipResults := by
  unfold Obligations.KeySkipResults
  refine ⟨fun x s k hs hk => ⟨?_, ?_⟩, fun x s hfault hk => ⟨?_, ?_⟩⟩
  · exact exec_skip_result (skipOnKey_eq_skipIf id hk) Iff.rfl hs
  · have hup : (!s.keys[k.val]) = true ↔ ¬s.keys[k.val] = true := by
      rw [Bool.not_eq_true', Bool.not_eq_true]
    have hskip := exec_skip_result (i := .skipKeyNotPressed x) (skipOnKey_eq_skipIf not hk) hup hs
    simpa only [ite_not] using hskip
  · exact skipOnKey_outOfRange id hfault hk
  · exact skipOnKey_outOfRange not hfault hk

/-! ### The wait -/

section

variable {k : Nat} {r : Nibble} {s : State}

/-- R187: a legal key number pressed during a wait goes to the pending register, and the wait ends. -/
theorem keyPress_of_waiting (hk : k ≤ 15) (hw : s.wait = some r) :
    keyPress k s = .next (((s.setKey (BitVec.ofNat 4 k) true).setReg r
      ((BitVec.ofNat 4 k).setWidth 8)).setWait none) := by
  rw [keyPress, if_pos hk, pressKey_of_waiting _ hw]

/-- R188: a legal key number released clears the flag of the key. -/
theorem keyRelease_of_le (hk : k ≤ 15) :
    keyRelease k s = .next (s.setKey (BitVec.ofNat 4 k) false) :=
  if_pos hk

/-- R187: the byte delivered is the key number. -/
theorem keyByte_toNat (hk : k ≤ 15) : ((BitVec.ofNat 4 k).setWidth 8).toNat = k := by
  rw [BitVec.toNat_setWidth_of_le (by decide), ofNat_toNat_of_lt (Nat.lt_succ_of_le hk)]

end

/-- Settles O55: the instruction latches x, so that a press finds the wait for Vx and ends it; a release
writes the key's flag alone. -/
theorem waitForKeyResult : Obligations.WaitForKeyResult := by
  unfold Obligations.WaitForKeyResult
  intro x s hs
  refine ⟨(s.setWait (some x)).advance, rfl, rfl, onlyChanges_wait (.head _),
    advance_pc_toNat (s.setWait (some x)) hs, fun k hk => ?_, fun k hk => ?_⟩
  · refine ⟨_, keyPress_of_waiting hk rfl, ?_, rfl, rfl⟩
    rw [setWait_reg, setReg_reg_same, keyByte_toNat hk]
  · exact ⟨_, keyRelease_of_le hk, rfl, fun _ _ => rfl⟩

/-! ### The timers -/

/-- Settles O56: a plain write of DT, and two writes of a timer. -/
theorem timerInstructionResults : Obligations.TimerInstructionResults := by
  unfold Obligations.TimerInstructionResults
  exact fun x s hs =>
    ⟨plainResult_of_writeReg rfl rfl hs,
      ⟨(s.setDelay (s.reg x)).advance, rfl, rfl, onlyChanges_dt (.head _),
        advance_pc_toNat (s.setDelay (s.reg x)) hs⟩,
      ⟨(s.setSound (s.reg x)).advance, rfl, rfl, onlyChanges_st (.head _),
        advance_pc_toNat (s.setSound (s.reg x)) hs⟩⟩

end Sys2Proof.Machine
end

section
/-!
PROOFS. The faults (spec 60_exceptions.md): every instruction raises the fault of the table R200 and no other
(R208), and a step at which one is raised leaves the state before it, its tick and the latch (R207).
-/

namespace Sys2Proof.Machine

variable {s t : State} {f : Fault}

/-! ### The first address outside memory -/

/-- R54, R204: when a range leaves memory, its first address above 4095 is the larger of its base and 4096. -/
theorem memFault_eq (base count : Nat) :
    memFault base count =
      if count ≠ 0 ∧ 4096 < base + count then some (.outOfRange .mem (max base 4096)) else none := by
  unfold memFault
  rw [List.find?_map]
  split
  · rename_i hout
    have hfirst : (List.range count).find? ((fun a => decide (a > 4095)) ∘ (base + ·)) =
        some (4096 - base) := by
      simp only [List.find?_range_eq_some, Function.comp_apply, List.mem_range, decide_eq_true_eq,
        Bool.not_eq_true', decide_eq_false_iff_not]
      exact ⟨by omega, by omega, fun j hj => by omega⟩
    have hmax : base + (4096 - base) = max base 4096 := by omega
    rw [hfirst, Option.map_some, hmax, Option.map_some]
  · rename_i hin
    have hnone : (List.range count).find? ((fun a => decide (a > 4095)) ∘ (base + ·)) = none := by
      simp only [List.find?_range_eq_none, Function.comp_apply, Bool.not_eq_true',
        decide_eq_false_iff_not]
      omega
    rw [hnone, Option.map_none, Option.map_none]

/-! ### The fault of an instruction -/

/-- An operation on `s` that is to raise `fault` (R206): it latches that fault and does nothing else, or
completes with the latch as it was. -/
structure Raises (fault : Option Fault) (s : State) (o : Host.Outcome State Fault Refusal) : Prop where
  taken : ∀ f, fault = some f → o = .next (s.latch f)
  completed : fault = none → ∃ t, o = .next t ∧ t.fault = s.fault

variable {o : Host.Outcome State Fault Refusal}

theorem raises_none (h : o = .next t) (hf : t.fault = s.fault) : Raises none s o :=
  ⟨fun _ hsome => absurd hsome (Option.some_ne_none _).symm, fun _ => ⟨t, h, hf⟩⟩

theorem raises_ite {c : Prop} [Decidable c] (htaken : c → o = .next (s.latch f))
    (hcompleted : ¬c → ∃ t, o = .next t ∧ t.fault = s.fault) :
    Raises (if c then some f else none) s o := by
  split
  · rename_i hc
    exact ⟨fun g hg => Option.some.inj hg ▸ htaken hc, fun hnone => absurd hnone (Option.some_ne_none _)⟩
  · rename_i hc
    exact ⟨fun _ hsome => absurd hsome (Option.some_ne_none _).symm, fun _ => hcompleted hc⟩

/-- R56, R204: the range check raises the fault of its range. -/
theorem withIndexRange_raises (count : Nat) (act : State → State) (hact : (act s).fault = s.fault) :
    Raises (memFault s.index.toNat count) s (withIndexRange count s act) := by
  rw [memFault_eq]
  exact raises_ite (fun ⟨hcount, hout⟩ => withIndexRange_bad count s act hcount hout)
    fun hin => ⟨_, withIndexRange_ok count s act (by omega), hact⟩

/-- R170, R171, R204: the check of a key number raises the fault of that number. -/
theorem skipOnKey_raises (c : Bool → Bool) (x : Nibble) :
    Raises (keyFault (s.reg x)) s (skipOnKey c x s) :=
  raises_ite (skipOnKey_bad c) fun hk => ⟨_, skipOnKey_ok c (Nat.not_lt.1 hk), rfl⟩

theorem dumpRegs_fault (k : Nat) (s : State) : (dumpRegs k s).fault = s.fault := by
  obtain ⟨m, hm⟩ := dumpRegs_keeps k s
  rw [hm]

theorem loadRegs_fault (k : Nat) (s : State) : (loadRegs k s).fault = s.fault := by
  obtain ⟨v, hv⟩ := loadRegs_keeps k s
  rw [hv]

/-- R200, R208: the instructions of the table by their checks, every other one by its meaning. -/
theorem exec_raises (i : Instr) (s : State) : Raises (faultOf i s) s (exec i s) :=
  match i with
  | .call nnn =>
    raises_ite (fun hfull => execCall_full nnn (by omega))
      fun hroom => ⟨_, execCall_ok nnn (by omega), rfl⟩
  | .ret =>
    raises_ite (fun hempty => execRet_empty (by omega)) fun hentry => ⟨_, execRet_ok (by omega), rfl⟩
  | .addIndex _ =>
    raises_ite exec_addIndex_overflow fun hsum => ⟨_, exec_addIndex_ok (Nat.not_lt.1 hsum), rfl⟩
  | .storeBCD x => withIndexRange_raises 3 (fun t => (storeDigits (t.reg x) t).advance) rfl
  | .regDump x =>
    withIndexRange_raises (regCount x) (fun t => (dumpRegs (regCount x) t).advance) (dumpRegs_fault _ s)
  | .regLoad x =>
    withIndexRange_raises (regCount x) (fun t => (loadRegs (regCount x) t).advance) (loadRegs_fault _ s)
  | .draw x y n => withIndexRange_raises n.toNat (drawSprite x y n) rfl
  | .skipKeyPressed x => skipOnKey_raises id x
  | .skipKeyNotPressed x => skipOnKey_raises not x
  | .clearScreen | .jump _ | .jumpIndexed _
  | .skipEqImm _ _ | .skipNeImm _ _ | .skipEqReg _ _ | .skipNeReg _ _
  | .loadImm _ _ | .move _ _ | .loadRand _ _
  | .addImm _ _ | .or _ _ | .and _ _ | .xor _ _
  | .add _ _ | .sub _ _ | .subRev _ _ | .shiftRight _ _ | .shiftLeft _ _
  | .loadIndex _ | .loadFont _
  | .loadDelay _ | .waitForKey _ | .setDelay _ | .setSound _ => raises_none rfl rfl

/-- Settles O14: by the fault each instruction raises, the latch being empty before. -/
theorem faultTable : Obligations.FaultTable := by
  unfold Obligations.FaultTable
  intro i s hf
  obtain ⟨htaken, hcompleted⟩ := exec_raises i s
  rw [hf] at hcompleted
  exact ⟨fun f hi => latch_eq s f hf ▸ htaken f hi, hcompleted⟩

/-! ### Precision -/

/-- R207 for an instruction. -/
theorem exec_fault_precise {i : Instr} (hf : s.fault = none) (h : exec i s = .next t)
    (ht : t.fault = some f) : t = { s with fault := some f } := by
  obtain ⟨htaken, hcompleted⟩ := faultTable i s hf
  cases hi : faultOf i s with
  | none =>
    obtain ⟨u, hu, hnone⟩ := hcompleted hi
    cases hu.symm.trans h
    cases hnone.symm.trans ht
  | some g =>
    cases (htaken g hi).symm.trans h
    cases ht
    rfl

/-- Settles O15: by the cases of a step; of these a blocked one cannot fault. -/
theorem faultsArePrecise : Obligations.FaultsArePrecise := by
  unfold Obligations.FaultsArePrecise
  intro s t f hf h
  refine step_elim (P := fun u => u.fault = some f → u = { s.tick with fault := some f }) h
    (fun hhalted => absurd hf hhalted) (fun _ ht => ?_) (fun g _ ht => ?_)
    fun i _ he => exec_fault_precise hf he
  · cases hf.symm.trans ht
  · rw [latch_eq s.tick g hf] at ht ⊢
    cases ht
    rfl

/-! ### The faults of the stack and of the decoder -/

theorem latch_fault_of_none (hf : s.fault = none) (f : Fault) : (s.latch f).fault = some f := by
  rw [latch_eq s f hf]

/-- Settles O30: each is the raising branch of its instruction. -/
theorem stackFaults : Obligations.StackFaults := by
  unfold Obligations.StackFaults
  refine ⟨fun nnn s hf hfull => ?_, fun s hf hempty => ?_⟩
  · exact ⟨_, execCall_full nnn (by omega), latch_fault_of_none hf _, rfl,
      onlyChanges_latch (.head _) _⟩
  · exact ⟨_, execRet_empty (by omega), latch_fault_of_none hf _, rfl,
      onlyChanges_latch (.head _) _⟩

theorem onlyChanges_timers {parts : List Part} (hdt : .dt ∈ parts) (hst : .st ∈ parts) (d e : Byte) :
    OnlyChanges parts s { s with dt := d, st := e } :=
  (onlyChanges_dt (b := d) (a := s.pc) hdt).trans (onlyChanges_st hst)

theorem onlyChanges_tick {parts : List Part} (hdt : .dt ∈ parts) (hst : .st ∈ parts) :
    OnlyChanges parts s s.tick :=
  onlyChanges_timers hdt hst _ _

/-- R201: a word that does not decode fails the step that fetches it. -/
theorem failsFetch_of_decode_error {e : DecodeError} (hf : s.fault = none) (hw : s.wait = none)
    (hpc : s.Fetchable) (hd : decode s.cfg.decStrict s.wordAtPc = .error e) :
    s.FailsFetch (.decodeFailure s.wordAtPc) :=
  ⟨hf, hw, .inr ⟨_, e, fetch_ok s (Nat.lt_succ_of_le hpc), hd, rfl⟩⟩

/-- Settles O12: the step ticks and latches the fault, and the next one finds the machine halted. -/
theorem decodeFailureStep : Obligations.DecodeFailureStep := by
  unfold Obligations.DecodeFailureStep
  intro s hf hw hpc hd
  exact ⟨_, step_of_failsFetch (failsFetch_of_decode_error hf hw hpc hd), latch_fault_of_none hf _,
    tickTimer_toNat s.dt, tickTimer_toNat s.st, rfl,
    (onlyChanges_tick (by simp) (by simp)).trans (onlyChanges_latch (by simp) _),
    step_halted _ (Option.some_ne_none _)⟩

end Sys2Proof.Machine
end

section
/-!
PROOFS. The controller (spec 47_controller.md): what opens every step (R180, R181), the program counter an
instruction leaves (R183), the blocked and the halted machine (R184, R191), batches (R185) and key events
(R187, R188).
-/

namespace Sys2Proof.Machine

variable {s t : State}

/-! ### A step -/

/-- Settles O9: the step of a running machine, and the frame of the tick. -/
theorem stepRunsDecodedInstruction : Obligations.StepRunsDecodedInstruction := by
  unfold Obligations.StepRunsDecodedInstruction
  exact fun s i h => ⟨step_of_executes h, rfl, onlyChanges_tick (by simp) (by simp)⟩

/-- R181, R36: after a step of a machine that is not halted, a part that no executed instruction writes
is as the tick left it, the latch apart. -/
theorem step_keeps_ticked {p : Part} (hp : p ≠ .fault) (hf : s.fault = none) (h : step s = .next t)
    (hno : ∀ i, s.Executes i → p ∉ partsWritten i) : p.same s.tick t :=
  step_elim (P := fun u => p.same s.tick u) h (absurd hf) (fun _ => Part.same_refl p _)
    (fun f _ => onlyChanges_latch (parts := [.fault]) (.head _) f p (by simpa using hp))
    fun i hs he => exec_onlyChanges he p (hno i hs)

theorem setDelay_of_dt_written {i : Instr} (h : .dt ∈ partsWritten i) : ∃ x, i = .setDelay x := by
  cases i with
  | setDelay x => exact ⟨x, rfl⟩
  | _ => simp [partsWritten] at h

theorem setSound_of_st_written {i : Instr} (h : .st ∈ partsWritten i) : ∃ x, i = .setSound x := by
  cases i with
  | setSound x => exact ⟨x, rfl⟩
  | _ => simp [partsWritten] at h

theorem step_dt (hf : s.fault = none) (h : step s = .next t) (hno : ∀ x, ¬s.Executes (.setDelay x)) :
    t.dt.toNat = s.dt.toNat - 1 := by
  have hticked : t.dt = tickTimer s.dt := step_keeps_ticked (p := .dt) (by decide) hf h fun i hs hw => by
    obtain ⟨x, rfl⟩ := setDelay_of_dt_written hw
    exact hno x hs
  rw [hticked, tickTimer_toNat]

theorem step_st (hf : s.fault = none) (h : step s = .next t) (hno : ∀ x, ¬s.Executes (.setSound x)) :
    t.st.toNat = s.st.toNat - 1 := by
  have hticked : t.st = tickTimer s.st := step_keeps_ticked (p := .st) (by decide) hf h fun i hs hw => by
    obtain ⟨x, rfl⟩ := setSound_of_st_written hw
    exact hno x hs
  rw [hticked, tickTimer_toNat]

/-- Settles O10: by what no executed instruction writes, and by the meaning of the three that copy a timer. -/
theorem tickOpensEveryStep : Obligations.TickOpensEveryStep := by
  unfold Obligations.TickOpensEveryStep
  refine fun s t hf h => ⟨step_dt hf h, step_st hf h, fun x hs => ?_, fun x hs => ?_, fun x hs => ?_⟩
  · cases (step_of_executes hs).symm.trans h
    rfl
  · cases (step_of_executes hs).symm.trans h
    rfl
  · cases (step_of_executes hs).symm.trans h
    calc ((writeReg x s.tick.dt s.tick).reg x).toNat
        = (tickTimer s.dt).toNat := congrArg BitVec.toNat (setReg_reg_same s.tick x s.tick.dt)
      _ = s.dt.toNat - 1 := tickTimer_toNat s.dt

/-! ### The next program counter -/

/-- R206: an instruction that has latched a fault has not completed, so nothing is claimed of its target. -/
theorem latch_not_completed {P : Fault → Prop} (f : Fault) (h : (s.latch f).fault = none) : P f :=
  absurd h (Option.some_ne_none _)

/-- R101, R183: a Call that completes goes on at its address. -/
theorem execCall_pc {nnn : Addr12} (h : execCall nnn s = .next t) (ht : t.fault = none) :
    t.pc.toNat = nnn.toNat :=
  execCall_elim (P := fun u => u.fault = none → u.pc.toNat = nnn.toNat) h latch_not_completed
    (fun _ _ => absAddr_toNat nnn) ht

/-- R102, R183: a Return that completes goes on behind the last entry in use. -/
theorem execRet_pc (hinv : s.Inv) (h : execRet s = .next t) (ht : t.fault = none) :
    ∃ k : Fin 16, k.val + 1 = s.sp.val ∧ t.pc.toNat = (s.stack[k.val]).toNat + 2 := by
  by_cases hentry : 0 < s.sp.val
  · cases (execRet_ok hentry).symm.trans h
    have hle := hinv.entries_le ⟨s.sp.val - 1, by omega⟩ (Nat.sub_one_lt_of_lt hentry)
    exact ⟨⟨s.sp.val - 1, by omega⟩, Nat.sub_add_cancel hentry, entry_add_two_toNat hle⟩
  · cases (execRet_empty hentry).symm.trans h
    exact absurd ht (Option.some_ne_none _)

section

variable (hpc : s.Fetchable)
include hpc

theorem pc_add_two_toNat : (s.pc + 2).toNat = s.pc.toNat + 2 :=
  advance_pc_toNat s hpc

theorem skipIf_pc_cases (c : Bool) :
    (skipIf c s).pc.toNat = s.pc.toNat + 4 ∨ (skipIf c s).pc.toNat = s.pc.toNat + 2 := by
  rw [skipIf_pc_toNat c s hpc]
  exact ite_eq_or_eq _ _ _

/-- R170, R171, R183: a key skip that completes skips or does not. -/
theorem skipOnKey_pc {c : Bool → Bool} {x : Nibble} (h : skipOnKey c x s = .next t)
    (ht : t.fault = none) : t.pc.toNat = s.pc.toNat + 4 ∨ t.pc.toNat = s.pc.toNat + 2 :=
  skipOnKey_elim
    (P := fun u => u.fault = none → u.pc.toNat = s.pc.toNat + 4 ∨ u.pc.toNat = s.pc.toNat + 2) h
    latch_not_completed (fun c _ => skipIf_pc_cases hpc c) ht

/-- R151, R183: an AddIndex that completes goes on behind itself. -/
theorem execAddIndex_pc {x : Nibble} (h : execAddIndex x s = .next t) (ht : t.fault = none) :
    t.pc.toNat = s.pc.toNat + 2 :=
  execAddIndex_elim (P := fun u => u.fault = none → u.pc.toNat = s.pc.toNat + 2) h
    latch_not_completed (fun _ _ => pc_add_two_toNat hpc) ht

/-- R56, R183: so does a memory instruction that completes, when its action advances PC. -/
theorem withIndexRange_pc {count : Nat} {act : State → State} (hact : (act s).pc = s.pc + 2)
    (h : withIndexRange count s act = .next t) (ht : t.fault = none) :
    t.pc.toNat = s.pc.toNat + 2 :=
  withIndexRange_elim (P := fun u => u.fault = none → u.pc.toNat = s.pc.toNat + 2) h
    latch_not_completed (fun _ => hact ▸ pc_add_two_toNat hpc) ht

end

/-- Settles O17: a fault is precise, and an instruction that completes does so with its own target. -/
theorem nextPcValues : Obligations.NextPcValues := by
  unfold Obligations.NextPcValues
  refine fun i s t hinv hpc hf h => ⟨fun ht => ?_, fun ht => ?_⟩
  · obtain ⟨f, hfault⟩ := Option.ne_none_iff_exists'.1 ht
    rw [exec_fault_precise hf h hfault]
  · cases i with
    | jump nnn => cases h; exact absAddr_toNat nnn
    | jumpIndexed nnn => cases h; exact indexedTarget_toNat nnn s
    | call nnn => exact execCall_pc h ht
    | ret => exact execRet_pc hinv h ht
    | skipEqImm | skipNeImm | skipEqReg | skipNeReg => cases h; exact skipIf_pc_cases hpc _
    | skipKeyPressed x => exact skipOnKey_pc hpc (c := id) h ht
    | skipKeyNotPressed x => exact skipOnKey_pc hpc (c := not) h ht
    | addIndex x => exact execAddIndex_pc hpc h ht
    | draw x y n => exact withIndexRange_pc hpc (act := drawSprite x y n) rfl h ht
    | storeBCD x =>
      exact withIndexRange_pc hpc (act := fun u => (storeDigits (u.reg x) u).advance) rfl h ht
    | regDump x =>
      exact withIndexRange_pc hpc (act := fun u => (dumpRegs (regCount x) u).advance)
        (congrArg (· + 2) (dumpRegs_pc _ s)) h ht
    | regLoad x =>
      exact withIndexRange_pc hpc (act := fun u => (loadRegs (regCount x) u).advance)
        (congrArg (· + 2) (loadRegs_pc _ s)) h ht
    | clearScreen | loadImm | addImm | move | or | and | xor | add | sub | subRev | shiftRight
    | shiftLeft | loadRand | loadIndex | loadFont | loadDelay | waitForKey | setDelay | setSound =>
      cases h; exact pc_add_two_toNat hpc

/-! ### Batches -/

theorem coreRun_succ_of_step {M : Host.Core} {s t : M.State} (h : M.step s = .next t) (n : Nat) :
    M.run (n + 1) s = M.run n t := by
  rw [Host.Core.run, h]

theorem runCycle_eq_run (n : Nat) (s : State) : runCycle n s = Sys2Proof.core.run n s := by
  induction n generalizing s with
  | zero => rfl
  | succ n ih =>
    obtain ⟨t, ht⟩ := step_answers_next s
    rw [runCycle_succ_of_step ht, ih]
    exact (coreRun_succ_of_step (M := Sys2Proof.core) ht n).symm

theorem runCycle_add {m : Nat} (n : Nat) (h : runCycle m s = .next t) :
    runCycle (m + n) s = runCycle n t := by
  induction m generalizing s with
  | zero =>
    cases h
    rw [Nat.zero_add]
  | succ m ih =>
    obtain ⟨u, hu⟩ := step_answers_next s
    rw [runCycle_succ_of_step hu] at h
    rw [Nat.add_right_comm, runCycle_succ_of_step hu, ih h]

/-- Settles O60: by induction on the number of steps. -/
theorem batchIsItsSteps : Obligations.BatchIsItsSteps := by
  unfold Obligations.BatchIsItsSteps
  exact ⟨runCycle_eq_run, fun _ n _ _ => runCycle_add n, fun _ => rfl⟩

/-- R191: a batch of a halted machine does nothing. -/
theorem runCycle_halted (hf : s.fault ≠ none) (n : Nat) : runCycle n s = .next s := by
  induction n with
  | zero => rfl
  | succ n ih => rw [runCycle_succ_of_step (step_halted s hf), ih]

/-! ### The blocked machine -/

theorem tick_iterate (n : Nat) (s : State) :
    State.tick^[n] s = { s with dt := tickTimer^[n] s.dt, st := tickTimer^[n] s.st } := by
  induction n generalizing s with
  | zero => rfl
  | succ n ih => rw [Function.iterate_succ_apply, ih]; rfl

theorem tickTimer_iterate_toNat (n : Nat) (b : Byte) : (tickTimer^[n] b).toNat = b.toNat - n := by
  induction n generalizing b with
  | zero => rfl
  | succ n ih => rw [Function.iterate_succ_apply, ih, tickTimer_toNat, Nat.sub_sub, Nat.add_comm]

theorem tick_iterate_wait (n : Nat) (s : State) : (State.tick^[n] s).wait = s.wait := by
  rw [tick_iterate]

/-- R184: a batch of a blocked machine is as many ticks. -/
theorem runCycle_blocked {r : Nibble} (hf : s.fault = none) (hw : s.wait = some r) (n : Nat) :
    runCycle n s = .next (State.tick^[n] s) := by
  induction n generalizing s with
  | zero => rfl
  | succ n ih =>
    rw [runCycle_succ_of_step (step_blocked s hf r hw), Function.iterate_succ_apply]
    exact ih hf hw

/-- R184, D28: a stream of bytes makes no difference, since no blocked step draws. -/
theorem runCycleWith_blocked {r : Nibble} (hf : s.fault = none) (hw : s.wait = some r)
    (bytes : List Byte) : runCycleWith bytes s = .next (State.tick^[bytes.length] s) := by
  induction bytes generalizing s with
  | nil => rfl
  | cons b bs ih =>
    have hno : ∀ x nn, ¬s.Executes (.loadRand x nn) := fun _ _ hs => by
      cases hs.unblocked.symm.trans hw
    have hstep : stepWith b s = .next s.tick := (stepWith_eq_step hno b).trans (step_blocked s hf r hw)
    rw [runCycleWith_cons_of_stepWith hstep, List.length_cons, Function.iterate_succ_apply]
    exact ih hf hw

/-! ### Key events -/

theorem keyPress_inv {k : Nat} (h : keyPress k s = .next t) : t = pressKey (BitVec.ofNat 4 k) s := by
  unfold keyPress at h
  split at h
  · exact (Host.Outcome.next.inj h).symm
  · cases h

theorem keyRelease_inv {k : Nat} (h : keyRelease k s = .next t) :
    t = s.setKey (BitVec.ofNat 4 k) false := by
  unfold keyRelease at h
  split at h
  · exact (Host.Outcome.next.inj h).symm
  · cases h

theorem keyPress_of_not_waiting {k : Nat} (hk : k ≤ 15) (hw : s.wait = none) :
    keyPress k s = .next (s.setKey (BitVec.ofNat 4 k) true) := by
  rw [keyPress, if_pos hk, pressKey_of_not_waiting _ hw]

theorem pressKey_fault (k : Nibble) (s : State) : (pressKey k s).fault = s.fault := by
  cases hw : s.wait with
  | none => rw [pressKey_of_not_waiting k hw, setKey_fault]
  | some r => rw [pressKey_of_waiting k hw, setWait_fault, setReg_fault, setKey_fault]

theorem onlyChanges_setKey {parts : List Part} (h : .keys ∈ parts) (k : Nibble) (b : Bool) :
    OnlyChanges parts s (s.setKey k b) :=
  fun p hp => by
    have hkept := Part.same_refl p s
    cases p with
    | keys => exact absurd h hp
    | _ => exact hkept

/-- R27: the flag written is the one of the key number. -/
theorem setKey_flag_self (s : State) (k : Fin 16) (b : Bool) :
    (s.setKey (BitVec.ofNat 4 k.val) b).keys[k.val] = b := by
  simp only [setKey_keys, ofNat_toNat_of_lt (w := 4) k.isLt, Vector.getElem_set_self]

theorem setKey_flag_ne (s : State) {j k : Fin 16} (hj : j ≠ k) (b : Bool) :
    (s.setKey (BitVec.ofNat 4 k.val) b).keys[j.val] = s.keys[j.val] := by
  have hne : k.val ≠ j.val := fun e => hj (Fin.ext e.symm)
  simp only [setKey_keys, ofNat_toNat_of_lt (w := 4) k.isLt, Vector.getElem_set_ne _ _ hne]

/-- Settles O57: by what an event does to a machine that waits and to one that does not, and by the flag it
writes. -/
theorem keyEvents : Obligations.KeyEvents := by
  unfold Obligations.KeyEvents
  refine ⟨fun k s hw => ?_, fun k r s hw => ?_, fun k s => ?_, fun k s hk => ?_⟩
  · exact ⟨_, keyPress_of_not_waiting (by omega) hw, setKey_flag_self s k true,
      fun j hj => setKey_flag_ne s hj true, rfl, onlyChanges_setKey (.head _) _ _⟩
  · refine ⟨_, keyPress_of_waiting (by omega) hw, setKey_flag_self s k true,
      fun j hj => setKey_flag_ne s hj true, ?_, fun j hj => ?_, rfl, rfl, ?_⟩
    · rw [setWait_reg, setReg_reg_same, keyByte_toNat (by omega)]
    · rw [setWait_reg, setReg_reg_ne _ _ _ _ (by simpa using hj), setKey_reg]
    · exact (onlyChanges_setKey (by simp) _ _).trans
        ((onlyChanges_regs (a := s.pc) (by simp)).trans (onlyChanges_wait (by simp)))
  · exact ⟨_, keyRelease_of_le (by omega), setKey_flag_self s k false,
      fun j hj => setKey_flag_ne s hj false, rfl, onlyChanges_setKey (.head _) _ _⟩
  · exact ⟨if_neg (Nat.not_le.2 hk), if_neg (Nat.not_le.2 hk)⟩

/-- Settles O16: a halted step and batch answer the same state, and a key event writes the key's flag, the
invariant excluding the wait that a press would end. -/
theorem haltedMachineStandsStill : Obligations.HaltedMachineStandsStill := by
  unfold Obligations.HaltedMachineStandsStill
  intro s hf
  refine ⟨step_halted s hf, runCycle_halted hf, fun k t h => ?_, fun k t h => ?_, fun hinv k t h => ?_⟩
  · rw [keyPress_inv h, pressKey_fault]
  · rw [keyRelease_inv h]
    exact ⟨rfl, rfl, onlyChanges_setKey (.head _) _ _⟩
  · rw [keyPress_inv h, pressKey_of_not_waiting _ (hinv.halted_not_waiting hf)]
    exact ⟨rfl, onlyChanges_setKey (.head _) _ _⟩

/-- R184: of the host's moves on a blocked machine, each but a press leaves it waiting. -/
theorem keyPress_of_unblocked {m : HostMove} {r : Nibble} (hf : s.fault = none) (hw : s.wait = some r)
    (h : performMove m s = .next t) (ht : t.wait ≠ some r) : ∃ k, m = .keyPress k := by
  cases m with
  | keyPress k => exact ⟨k, rfl⟩
  | runCycle n =>
    cases (runCycle_blocked hf hw n).symm.trans h
    exact absurd ((tick_iterate_wait n s).trans hw) ht
  | runCycleWith bytes =>
    cases (runCycleWith_blocked hf hw bytes).symm.trans h
    exact absurd ((tick_iterate_wait bytes.length s).trans hw) ht
  | keyRelease k =>
    cases keyRelease_inv h
    exact absurd hw ht
  | readFramebuffer | supplyRandom bytes =>
    cases h
    exact absurd hw ht

/-- Settles O11: a batch of a blocked machine is as many ticks; the step that begins the wait is an executed
one; and the host's moves go case by case. -/
theorem blockedStepsOnlyTick : Obligations.BlockedStepsOnlyTick := by
  unfold Obligations.BlockedStepsOnlyTick
  refine ⟨fun s r n hf hw => ⟨_, runCycle_blocked hf hw n, ?_⟩, fun s x hs => ?_,
    fun m s t r => keyPress_of_unblocked⟩
  · rw [tick_iterate]
    exact ⟨tickTimer_iterate_toNat n s.dt, tickTimer_iterate_toNat n s.st, rfl, hw, hf,
      onlyChanges_timers (by simp) (by simp) _ _⟩
  · exact ⟨(s.tick.setWait (some x)).advance, step_of_executes hs, tickTimer_toNat s.dt,
      tickTimer_toNat s.st, rfl, pc_add_two_toNat hs.fetchable⟩

end Sys2Proof.Machine
end

section
/-!
PROOFS. Reset and hazards (spec 70_reset_and_hazards.md): the memory Construct leaves (R230, R231), and what a
batch cannot change (R237).
-/

namespace Sys2Proof.Machine

variable {s t : State}

/-! ### Construct -/

section

variable (cfg : Config) {m : Memory} {a : Nat} {bytes : List Byte}

/-- Copying bytes in changes no address outside their range. -/
theorem memRead_loadBytes_outside {a' : Nat} (h : ¬(a ≤ a' ∧ a' < a + bytes.length)) :
    memRead cfg (loadBytes cfg a bytes m) a' = memRead cfg m a' := by
  induction bytes generalizing a m with
  | nil => rfl
  | cons b bs ih =>
    rw [List.length_cons] at h
    rw [loadBytes, ih (by omega), memRead_memWrite_ne cfg m b (by omega)]

/-- Inside memory the j-th byte copied in is read at the j-th address. -/
theorem memRead_loadBytes_inside (hm : memWf cfg m = true) (hfit : a + bytes.length ≤ 4096)
    {j : Nat} (hj : j < bytes.length) :
    memRead cfg (loadBytes cfg a bytes m) (a + j) = bytes[j] := by
  induction bytes generalizing a m j with
  | nil => exact absurd hj (Nat.not_lt_zero j)
  | cons b bs ih =>
    rw [List.length_cons] at hfit hj
    cases j with
    | zero =>
      rw [loadBytes, memRead_loadBytes_outside cfg (by omega)]
      exact memRead_memWrite_same cfg b hm (by omega)
    | succ j =>
      have haddr : a + (j + 1) = a + 1 + j := by omega
      rw [loadBytes, haddr]
      exact ih (memWrite_wf cfg a b hm) (by omega) (by omega)

end

/-- R230: an image that fits is copied into the initial state's memory. -/
theorem construct_ok (cfg : Config) {image : List Byte} (h : image.length ≤ 3584) :
    construct cfg image =
      .next { State.initial cfg with mem := loadBytes cfg progBase image [] } :=
  if_neg (Nat.not_lt.2 h)

/-- Settles O58: by what copying leaves inside and outside the image's range, reset contents lying below. -/
theorem constructLoadsImage : Obligations.ConstructLoadsImage := by
  unfold Obligations.ConstructLoadsImage
  refine ⟨fun cfg image hlen => ⟨_, construct_ok cfg hlen, loadBytes_wf cfg _ _ rfl, rfl, rfl,
    fun a ha => ?_, fun j hj => ?_, fun a hfont himage => ?_, onlyChanges_mem (.head _)⟩,
    fun cfg image hlen => if_pos hlen⟩
  · exact (memRead_loadBytes_outside (a := 0x200) cfg (by omega)).trans (dif_pos ha)
  · exact memRead_loadBytes_inside cfg rfl (Nat.add_le_add_left hlen progBase) hj
  · exact (memRead_loadBytes_outside cfg himage).trans (dif_neg (Nat.not_lt.2 hfont))

/-! ### Batches -/

theorem keys_not_mem_partsWritten (i : Instr) : .keys ∉ partsWritten i := by
  cases i <;> simp [partsWritten]

theorem step_keys (h : step s = .next t) : t.keys = s.keys := by
  by_cases hf : s.fault = none
  · exact step_keeps_ticked (p := .keys) (by decide) hf h fun i _ => keys_not_mem_partsWritten i
  · cases (step_halted s hf).symm.trans h
    rfl

theorem runCycle_keys {n : Nat} (h : runCycle n s = .next t) : t.keys = s.keys := by
  induction n generalizing s with
  | zero => cases h; rfl
  | succ n ih =>
    obtain ⟨u, hu⟩ := step_answers_next s
    rw [runCycle_succ_of_step hu] at h
    exact (ih h).trans (step_keys hu)

/-- R184, R191: a pending wait outlasts any batch, blocked or halted. -/
theorem runCycle_wait {n : Nat} {r : Nibble} (hw : s.wait = some r) (h : runCycle n s = .next t) :
    t.wait = some r := by
  by_cases hf : s.fault = none
  · cases (runCycle_blocked hf hw n).symm.trans h
    exact (tick_iterate_wait n s).trans hw
  · cases (runCycle_halted hf n).symm.trans h
    exact hw

/-- Settles O25: KEY by induction on the batch, the parameters as what every input keeps, the wait as the
blocked or halted machine's. -/
theorem batchKeepsKeysAndWait : Obligations.BatchKeepsKeysAndWait := by
  unfold Obligations.BatchKeepsKeysAndWait
  exact fun n s t h => ⟨runCycle_keys h, (cfg_keptByHost s.cfg).runCycle rfl h,
    fun r hw => runCycle_wait hw h⟩

end Sys2Proof.Machine
end
